-- ==== Sys2Proof/Word.lean ====
section
/-! DEFINITION. The word types of MMK-CORE: bytes of `BMEM`, 32-bit cells and control registers,
64-bit accumulator cells and 64-bit command words. -/

namespace Sys2Proof

/-- One byte of `BMEM` or of an XOF stream (`20_memory.md` R46). -/
abbrev Byte := BitVec 8

/-- A coefficient cell (`10_state.md` R21) or a control register (R29): 32 bits. -/
abbrev Word := BitVec 32

/-- An accumulator cell: 64-bit two's complement (`10_state.md` R24). -/
abbrev AccCell := BitVec 64

/-- A command word as it stands on the command port (`30_encoding.md` R60). -/
abbrev Cmd := BitVec 64

/-- The coefficient cells of one polynomial, `c[0]` first (`10_state.md` R21). -/
abbrev Poly := List Word

end Sys2Proof
end

