-- ==== Sys2Proof/Config.lean ====
section
/-! DEFINITION. What an MMK-CORE is built with: the static parameters (`00_scope.md` R6 to R12), and the
free values of the model (opaque constants: no proof can see what they are). -/

namespace Sys2Proof

/-- Which of the two XOF functions a stream uses: `A` is `XOF128`, `S` is `XOFSEC` (`10_state.md` R26). -/
inductive XofKind where
  | a
  | s
deriving DecidableEq, Repr

/-- The arguments of `GAUSSMAP`: the two 64-bit draws and σ as the content of a `SIGMA` register
(`42_sampler.md` R96, `10_state.md` R32). -/
structure GaussArg where
  tx : BitVec 64
  ty : BitVec 64
  sigma : Word
deriving DecidableEq, Repr

/-- The static parameters of one built MMK-CORE. They are fixed when it is built and no step changes
them (`10_state.md` R20). The three tables hold what is KNOWN of the uninterpreted functions of
R11 and R12 (a finite part of each, as data): beyond them the functions are the free values below. Log 1 to 3. -/
structure Params where
  /-- `D`, the ring degree (R6) -/
  d : Nat
  /-- `Q`, the modulus (R7) -/
  q : Nat
  /-- `PSI`, a primitive `2D`-th root of unity modulo `Q` (R8) -/
  psi : Nat
  /-- `NPOLY`, the number of slots (R10) -/
  npoly : Nat
  /-- `MAXDIM`, the largest matrix dimension (R10) -/
  maxdim : Nat
  /-- `BMEM_BYTES`, the size of the byte memory (R10) -/
  bmemBytes : Nat
  /-- seeds of `XOF128` and the first bytes of their streams, as far as they are known (R11) -/
  xof128 : List (List Byte × List Byte)
  /-- the same for `XOFSEC` (R11) -/
  xofsec : List (List Byte × List Byte)
  /-- arguments of `GAUSSMAP` and their results, as far as they are known (R12) -/
  gauss : List (GaussArg × (Int × Int))
deriving DecidableEq, Repr

namespace Params

/-- The default instance: `D = 256`, `Q = 33550337`, `PSI = 158302`, `NPOLY = 32`, `MAXDIM = 9`,
`BMEM_BYTES = 2^20` (R6 to R10), with nothing known of the XOFs and of `GAUSSMAP`. -/
def default : Params where
  d := 256
  q := 33550337
  psi := 158302
  npoly := 32
  maxdim := 9
  bmemBytes := 2 ^ 20
  xof128 := []
  xofsec := []
  gauss := []

/-- The constraints the spec puts on the static parameters: R6 (`D = 2^L`, `L >= 3`), R7 (`Q` an odd
prime below `2^31`, `Q mod 2D = 1`), R8 (`PSI^D mod Q = Q - 1`), R10 (the upper bounds of the sizing
parameters). DESIGN CHOICE (log 19): the bounds that spec/ does not put, `psi_lt`, `npoly_pos`, `maxdim_pos`
and `bmem_pos`. -/
structure Legal (p : Params) : Prop where
  d_pow : ∃ l, 3 ≤ l ∧ p.d = 2 ^ l
  q_prime : Nat.Prime p.q
  q_odd : p.q % 2 = 1
  q_lt : p.q < 2 ^ 31
  q_mod : p.q % (2 * p.d) = 1
  /-- follows from R8, as `0^D mod Q` is not `Q - 1` -/
  psi_pos : 0 < p.psi
  /-- DESIGN CHOICE (log 19): of the integers that stand for one root modulo `Q`, `PSI` is the one below `Q` -/
  psi_lt : p.psi < p.q
  psi_root : p.psi ^ p.d % p.q = p.q - 1
  /-- DESIGN CHOICE (log 19): there is a slot -/
  npoly_pos : 1 ≤ p.npoly
  npoly_le : p.npoly ≤ 256
  /-- DESIGN CHOICE (log 19): there is a matrix entry -/
  maxdim_pos : 1 ≤ p.maxdim
  maxdim_le : p.maxdim ≤ 15
  /-- DESIGN CHOICE (log 19): there is a byte of `BMEM` -/
  bmem_pos : 1 ≤ p.bmemBytes
  bmem_le : p.bmemBytes ≤ 2 ^ 32

end Params

namespace Config

/-- FREE VALUE. Byte number `n` of the stream of `seed` under the XOF `kind` (`00_scope.md` R11: an
uninterpreted deterministic function of the seed). Log 2. -/
opaque xofByte (kind : XofKind) (seed : List Byte) (n : Nat) : Byte

/-- FREE VALUE. The two samples `GAUSSMAP` gives for draws with `0 < s < 1` (`42_sampler.md` R96: a
model may assume that they depend on the arguments alone). Log 3. -/
opaque gaussValue (arg : GaussArg) : Int × Int

/-- FREE VALUE. What a coefficient of an `AMAT` entry outside `M x N` becomes after `SETUP`
(`44_protocol.md` R139), for use number `n`, before it is brought below `Q`. Log 8. -/
opaque freeCoef (n row col j : Nat) : Nat

/-- FREE VALUE. The byte a host read of `BMEM` returns while the engine is `BUSY` (`20_memory.md` R52),
for use number `n`. Log 9. -/
opaque freeByte (n : Nat) : Byte

/-- What an unlisted byte of `BMEM` reads as. DESIGN CHOICE (log 6): the spec leaves the content of
`BMEM` after reset open (`20_memory.md` R47). -/
def bmemFill : Byte := 0

/-- How many draws a rejection loop of a command is given in the engine's first attempt at it.
DESIGN CHOICE (log 5): as many as the 64-bit stream position of `10_state.md` R26 can count. -/
def burst : Nat := 2 ^ 64

end Config

end Sys2Proof
end

