-- ==== Sys2Proof/Machine/Arith.lean ====
section
/-! DEFINITION. Integer helpers of the rules (`00_scope.md` R14, R15), the derived constants (R9), and the
little-endian reading of bytes and of packed values (`20_memory.md` R48, R49). -/

namespace Sys2Proof.Machine

/-- `x mod m` of R15: the representative in `[0, m)`, also for a negative `x`. -/
def imod (x : Int) (m : Nat) : Nat := (x % (m : Int)).toNat

/-- `ceil(a / b)`. -/
def ceilDiv (a b : Nat) : Nat := (a + b - 1) / b

/-- `bitlen(x)` of R9: the number of bits of `x` without leading zeros, `bitlen(0) = 0`. -/
def bitlen (x : Nat) : Nat := if x = 0 then 0 else Nat.log2 x + 1

/-- `brv_L(k)` of R15: bit `i` of the result is bit `L-1-i` of `k`. -/
def brv : Nat → Nat → Nat
  | 0, _ => 0
  | l + 1, k => (k % 2) * 2 ^ l + brv l (k / 2)

/-! ### Derived constants (R9) -/

/-- `L = log2(D)`. -/
def logD (p : Params) : Nat := Nat.log2 p.d

/-- `QBITS = bitlen(Q - 1)`. -/
def qbits (p : Params) : Nat := bitlen (p.q - 1)

/-- `QBYTES = ceil(QBITS / 8)`. -/
def qbytes (p : Params) : Nat := ceilDiv (qbits p) 8

/-- `DINV = D^-1 mod Q`. As `Q mod D = 1` (R7), `D * (Q - (Q - 1) / D) = 1 mod Q`. DEDUCED, log 15. -/
def dinv (p : Params) : Nat := p.q - (p.q - 1) / p.d

/-- `SZB = ceil(D / 8)`: bytes of a binary secret or of a 1-bit polynomial. -/
def szb (p : Params) : Nat := ceilDiv p.d 8

/-- `SZT = ceil(D / 5)`: bytes of a ternary secret. -/
def szt (p : Params) : Nat := ceilDiv p.d 5

/-- `ceil(D * b / 8)`: bytes of a polynomial packed at `b` bits (R48). -/
def packedLen (p : Params) (b : Nat) : Nat := ceilDiv (p.d * b) 8

/-- `PKPOLY = ceil(D * QBITS / 8)`: bytes of one public-key polynomial. -/
def pkpoly (p : Params) : Nat := packedLen p (qbits p)

/-! ### Little-endian digits (R48, R49) -/

/-- The `n` lowest base-`2^w` digits of `x`, least significant first. -/
def digits (w : Nat) : Nat → Nat → List Nat
  | 0, _ => []
  | n + 1, x => x % 2 ^ w :: digits w n (x / 2 ^ w)

/-- `sum over i of v[i] * 2^(i*w)`. -/
def ofDigits (w : Nat) : List Nat → Nat
  | [] => 0
  | v :: vs => v + 2 ^ w * ofDigits w vs

/-- The `n`-byte little-endian form of `x`. -/
def bytesOf (n x : Nat) : List Byte := (digits 8 n x).map (BitVec.ofNat 8)

/-- `int_le(s)` of R14. -/
def intLe (s : List Byte) : Nat := ofDigits 8 (s.map BitVec.toNat)

/-- `le32(v)` of R14. -/
def le32 (v : Nat) : List Byte := bytesOf 4 v

/-! ### Cells and numbers -/

/-- The cells of a polynomial as unsigned integers (`10_state.md` R21). -/
def natsOf (f : Poly) : List Nat := f.map BitVec.toNat

/-- Unsigned integers stored in 32-bit cells. -/
def cellsOf (v : List Nat) : Poly := v.map (BitVec.ofNat 32)

/-- All the answers, or none if one is missing. -/
def allSome {α : Type} : List (Option α) → Option (List α)
  | [] => some []
  | none :: _ => none
  | some x :: rest =>
    match allSome rest with
    | none => none
    | some xs => some (x :: xs)

end Sys2Proof.Machine
end

