-- ==== Sys2Proof/Machine/Coding.lean ====
section
/-! DEFINITION. The Codec as pure functions (`43_codec.md` R121 to R127), the formulas as written there. -/

namespace Sys2Proof.Machine

/-- `Serialize(v, b)` (R121): the little-endian bytes of `sum over i of v[i] * 2^(i*b)`. -/
def serialize (p : Params) (v : List Nat) (b : Nat) : List Byte := bytesOf (packedLen p b) (ofDigits b v)

/-- `Deserialize(B, b)` (R122): the `D` base-`2^b` digits of the first `ceil(D*b/8)` bytes. -/
def deserialize (p : Params) (s : List Byte) (b : Nat) : List Nat :=
  digits b p.d (intLe (s.take (packedLen p b)))

/-- `Compress(x, b, q) = ((2^b * x + (q // 2)) // q) mod 2^b` (R123). -/
def compress (x b q : Nat) : Nat := ((2 ^ b * x + q / 2) / q) % 2 ^ b

/-- `Decompress(x, b, q) = ((q * x + 2^(b-1)) >> b) mod q` (R124). -/
def decompress (x b q : Nat) : Nat := ((q * x + 2 ^ (b - 1)) / 2 ^ b) % q

/-- `CrossRound(x, q2) = ((4 * x) // q2) mod 2` (R126). -/
def crossRound (x q2 : Nat) : Nat := ((4 * x) / q2) % 2

/-- The lower end of the accepting interval of `Reconcile` (R127). -/
def reconcileLo (h q2 : Nat) : Int :=
  if h = 0 then (ceilDiv q2 4 : Int) + (q2 / 8 : Nat) - 1 else ((q2 / 8 : Nat) : Int) - 1

/-- The upper end, excluded, of the accepting interval of `Reconcile` (R127). -/
def reconcileHi (h q2 : Nat) : Int :=
  if h = 0 then (q2 : Int) - (q2 / 8 : Nat) - 1 else (q2 : Int) - (q2 / 4 : Nat) - (q2 / 8 : Nat) - 1

/-- `Reconcile(w, h, q2)` (R127): 1 inside the interval, else 0; the intervals do not wrap. -/
def reconcile (w h q2 : Nat) : Nat :=
  if reconcileLo h q2 ≤ (w : Int) ∧ (w : Int) < reconcileHi h q2 then 1 else 0

/-- `RandomizeDouble(v, S)` (R125), given the 64-bit words that the stream supplies, one for each group of
32 coefficients: `2 * v + b0 - b1 mod 2Q` with the bit pair of the coefficient's place in its group. -/
def randomizeDouble (q : Nat) (word : Nat → Nat) (v : List Nat) : List Nat :=
  v.zipIdx.map fun (x, i) =>
    let r := word (i / 32)
    let b0 := (r / 2 ^ (2 * (i % 32))) % 2
    let b1 := (r / 2 ^ (2 * (i % 32) + 1)) % 2
    imod (2 * (x : Int) + b0 - b1) (2 * q)

/-- The bytes `RandomizeDouble` reads: 8 for each group of 32 coefficients (R118, R125). -/
def doubleBytes (p : Params) : Nat := 8 * ceilDiv p.d 32

end Sys2Proof.Machine
end

