-- ==== Sys2Proof/Syntax.lean ====
section
/-! DEFINITION. The 35 commands of MMK-CORE, one constructor per row of the opcode map
(`30_encoding.md` R66), with the fields the "uses" column lists, in its order. -/

namespace Sys2Proof

/-- A command with the fields it uses. Slot numbers `pd pa pb ps`, the width `bits`, the modulus
fields `msel mbits`, the stream number `xs`, the selectors `sub sub2 aux8`, the byte address `addr`
and `imm32` are as wide as their fields (`30_encoding.md` R61 to R64). -/
inductive Instr where
  /-- no operation (`40_system.md` R75) -/
  | nop
  /-- check the configuration (R76) -/
  | ldcfg
  /-- return from the error state (R77) -/
  | clrerr
  /-- forward transform (`41_ringarith.md` R84) -/
  | ntt (pd pa : BitVec 8)
  /-- inverse transform (R85) -/
  | intt (pd pa : BitVec 8)
  /-- pointwise product (R86) -/
  | muln (pd pa pb : BitVec 8)
  /-- modular addition (R87) -/
  | add (pd pa pb : BitVec 8) (msel : BitVec 2) (mbits : BitVec 6)
  /-- modular subtraction (R88) -/
  | sub (pd pa pb : BitVec 8) (msel : BitVec 2) (mbits : BitVec 6)
  /-- multiplication by a scalar (R89) -/
  | scale (pd pa : BitVec 8) (imm32 : BitVec 32)
  /-- clear the accumulator (R90) -/
  | aclr
  /-- schoolbook multiply-accumulate (R91) -/
  | macs (pa pb : BitVec 8)
  /-- reduce the accumulator (R92) -/
  | ared (pd : BitVec 8) (msel : BitVec 2) (mbits : BitVec 6)
  /-- signed normalize (R93) -/
  | snorm (pd pa : BitVec 8)
  /-- copy a matrix entry (R94) -/
  | geta (pd : BitVec 8) (sub sub2 : BitVec 4)
  /-- open a stream on `XOF128` (`42_sampler.md` R98) -/
  | xinita (xs : BitVec 2) (aux8 : BitVec 8) (addr : BitVec 32)
  /-- open a stream on `XOFSEC` (R99) -/
  | xinits (xs : BitVec 2) (aux8 : BitVec 8) (addr : BitVec 32)
  /-- sample a uniform polynomial (R100) -/
  | smpu (pd : BitVec 8) (xs : BitVec 2) (sub : BitVec 4)
  /-- sample a ternary secret's bytes (R101) -/
  | smpt (xs : BitVec 2) (addr : BitVec 32)
  /-- sample a binary secret's bytes (R102) -/
  | smpb (xs : BitVec 2) (addr : BitVec 32)
  /-- decode a ternary secret (R103) -/
  | dect (ps aux8 : BitVec 8) (addr : BitVec 32)
  /-- decode a binary secret (R104) -/
  | decb (ps aux8 : BitVec 8) (addr : BitVec 32)
  /-- sample a Gaussian polynomial (R105) -/
  | smpg (pd : BitVec 8) (xs : BitVec 2) (sub : BitVec 4)
  /-- serialize (`43_codec.md` R114) -/
  | ser (ps : BitVec 8) (bits : BitVec 6) (addr : BitVec 32)
  /-- deserialize (R115) -/
  | deser (ps : BitVec 8) (bits : BitVec 6) (aux8 : BitVec 8) (addr : BitVec 32)
  /-- compress (R116) -/
  | comp (pd pa : BitVec 8) (bits : BitVec 6) (msel : BitVec 2) (mbits : BitVec 6)
  /-- decompress (R117) -/
  | dcmp (pd pa : BitVec 8) (bits : BitVec 6) (msel : BitVec 2) (mbits : BitVec 6)
  /-- randomized modulus doubling (R118) -/
  | rdbl (pd pa : BitVec 8) (xs : BitVec 2)
  /-- cross-rounding (R119) -/
  | xrnd (pd pa : BitVec 8) (msel : BitVec 2) (mbits : BitVec 6)
  /-- reconciliation (R120) -/
  | recn (pd pa pb : BitVec 8) (msel : BitVec 2) (mbits : BitVec 6)
  /-- derive the matrix (`44_protocol.md` R139) -/
  | setup
  /-- make a key pair (R140) -/
  | keygen
  /-- encapsulate (R143) -/
  | encap
  /-- encrypt (R144) -/
  | enc
  /-- decapsulate (R146) -/
  | decap
  /-- decrypt (R147) -/
  | dec
deriving DecidableEq, Repr

end Sys2Proof
end

