-- ==== Sys2Proof/WellFormed.lean ====
section
/-! DEFINITION. The value checks of `30_encoding.md` R65 on the used fields of a command (its items 3
to 7), each as a Bool. Items 1 and 2 are about the word and stand in Decode. -/

namespace Sys2Proof

/-- R65 item 3: a slot number is below `NPOLY`. -/
def slotOk (p : Params) (n : BitVec 8) : Bool := decide (n.toNat < p.npoly)

/-- R65 item 4: `1 <= bits <= 32`. -/
def bitsOk (b : BitVec 6) : Bool := decide (1 ≤ b.toNat ∧ b.toNat ≤ 32)

/-- R65 item 5: `msel` is 0, 1 or 2; with 2, `1 <= mbits <= 32`; with 0 or 1, `mbits = 0`. -/
def modOk (msel : BitVec 2) (mbits : BitVec 6) : Bool :=
  match msel.toNat with
  | 0 => mbits == 0
  | 1 => mbits == 0
  | 2 => decide (1 ≤ mbits.toNat ∧ mbits.toNat ≤ 32)
  | _ => false

namespace Instr

/-- The slot numbers a command uses. -/
def slots : Instr → List (BitVec 8)
  | .ntt pd pa | .intt pd pa | .scale pd pa _ | .snorm pd pa => [pd, pa]
  | .comp pd pa _ _ _ | .dcmp pd pa _ _ _ | .rdbl pd pa _ | .xrnd pd pa _ _ => [pd, pa]
  | .muln pd pa pb | .add pd pa pb _ _ | .sub pd pa pb _ _ | .recn pd pa pb _ _ => [pd, pa, pb]
  | .macs pa pb => [pa, pb]
  | .ared pd _ _ | .geta pd _ _ | .smpu pd _ _ | .smpg pd _ _ => [pd]
  | .dect ps _ _ | .decb ps _ _ | .ser ps _ _ | .deser ps _ _ _ => [ps]
  | .nop | .ldcfg | .clrerr | .aclr | .xinita _ _ _ | .xinits _ _ _ | .smpt _ _ | .smpb _ _ => []
  | .setup | .keygen | .encap | .enc | .decap | .dec => []

/-- R65 item 3 for every used slot field. -/
def slotsOk (p : Params) (i : Instr) : Bool := i.slots.all (slotOk p)

/-- R65 item 4, where the command uses `bits`. -/
def widthOk : Instr → Bool
  | .ser _ b _ | .deser _ b _ _ | .comp _ _ b _ _ | .dcmp _ _ b _ _ => bitsOk b
  | .nop | .ldcfg | .clrerr | .ntt _ _ | .intt _ _ | .muln _ _ _ | .add _ _ _ _ _ | .sub _ _ _ _ _
  | .scale _ _ _ | .aclr | .macs _ _ | .ared _ _ _ | .snorm _ _ | .geta _ _ _ | .xinita _ _ _
  | .xinits _ _ _ | .smpu _ _ _ | .smpt _ _ | .smpb _ _ | .dect _ _ _ | .decb _ _ _ | .smpg _ _ _
  | .rdbl _ _ _ | .xrnd _ _ _ _ | .recn _ _ _ _ _ | .setup | .keygen | .encap | .enc | .decap | .dec => true

/-- R65 item 5, where the command uses `msel` and `mbits`. -/
def modulusOk : Instr → Bool
  | .add _ _ _ m k | .sub _ _ _ m k | .ared _ m k | .comp _ _ _ m k | .dcmp _ _ _ m k => modOk m k
  | .xrnd _ _ m k | .recn _ _ _ m k => modOk m k
  | .nop | .ldcfg | .clrerr | .ntt _ _ | .intt _ _ | .muln _ _ _ | .scale _ _ _ | .aclr | .macs _ _
  | .snorm _ _ | .geta _ _ _ | .xinita _ _ _ | .xinits _ _ _ | .smpu _ _ _ | .smpt _ _ | .smpb _ _
  | .dect _ _ _ | .decb _ _ _ | .smpg _ _ _ | .ser _ _ _ | .deser _ _ _ _ | .rdbl _ _ _ | .setup | .keygen
  | .encap | .enc | .decap | .dec => true

/-- R65 item 6: the `sub` of `SMPU` and of `SMPG` is 0 or 1. -/
def selectorOk : Instr → Bool
  | .smpu _ _ k | .smpg _ _ k => decide (k.toNat ≤ 1)
  | .nop | .ldcfg | .clrerr | .ntt _ _ | .intt _ _ | .muln _ _ _ | .add _ _ _ _ _ | .sub _ _ _ _ _
  | .scale _ _ _ | .aclr | .macs _ _ | .ared _ _ _ | .snorm _ _ | .geta _ _ _ | .xinita _ _ _
  | .xinits _ _ _ | .smpt _ _ | .smpb _ _ | .dect _ _ _ | .decb _ _ _ | .ser _ _ _ | .deser _ _ _ _
  | .comp _ _ _ _ _ | .dcmp _ _ _ _ _ | .rdbl _ _ _ | .xrnd _ _ _ _ | .recn _ _ _ _ _ | .setup | .keygen
  | .encap | .enc | .decap | .dec => true

/-- R65 item 7: the `aux8` of `DESER` is 0, 1 or 2; that of `DECT` and `DECB` is 0 to 32. -/
def auxOk : Instr → Bool
  | .deser _ _ aux _ => decide (aux.toNat ≤ 2)
  | .dect _ aux _ | .decb _ aux _ => decide (aux.toNat ≤ 32)
  | .nop | .ldcfg | .clrerr | .ntt _ _ | .intt _ _ | .muln _ _ _ | .add _ _ _ _ _ | .sub _ _ _ _ _
  | .scale _ _ _ | .aclr | .macs _ _ | .ared _ _ _ | .snorm _ _ | .geta _ _ _ | .xinita _ _ _
  | .xinits _ _ _ | .smpu _ _ _ | .smpt _ _ | .smpb _ _ | .smpg _ _ _ | .ser _ _ _ | .comp _ _ _ _ _
  | .dcmp _ _ _ _ _ | .rdbl _ _ _ | .xrnd _ _ _ _ | .recn _ _ _ _ _ | .setup | .keygen | .encap | .enc
  | .decap | .dec => true

/-- A command whose used fields pass every value check of R65. -/
def wellFormed (p : Params) (i : Instr) : Bool :=
  i.slotsOk p && i.widthOk && i.modulusOk && i.selectorOk && i.auxOk

end Instr

end Sys2Proof
end

