-- ==== Sys2Proof/Decode.lean ====
section
/-! DEFINITION. The decoder and the encoder of command words (`30_encoding.md` R60 to R67). The decoder is
total: every 64-bit word is a command or is rejected by the name of the first check of R65 it fails. -/

namespace Sys2Proof

/-- Why a word is no command: the items 1 to 7 of R65, in their order. -/
inductive DecodeReject where
  /-- item 1: the opcode is not in the table -/
  | unknownOpcode
  /-- item 2: a field the opcode does not use, or a `zero` field, is not 0 -/
  | unusedField
  /-- item 3: a used slot number is not below `NPOLY` -/
  | slotRange
  /-- item 4: a used `bits` is outside 1 to 32 -/
  | widthRange
  /-- item 5: `msel = 3`, or `mbits` does not fit `msel` -/
  | modulusRange
  /-- item 6: `sub` outside the command's range -/
  | selectorRange
  /-- item 7: `aux8` outside the command's range -/
  | auxRange
deriving DecidableEq, Repr

/-- A field of format R (R61). -/
inductive RField where
  | pd | pa | pb | bits | msel | xs | sub | sub2 | mbits | zero
deriving DecidableEq, Repr

/-- A field of format M (R62). -/
inductive MField where
  | ps | bits | xs | aux8 | addr
deriving DecidableEq, Repr

/-- The fields of format R above the opcode. -/
def RField.all : List RField := [.pd, .pa, .pb, .bits, .msel, .xs, .sub, .sub2, .mbits, .zero]

/-- The fields of format M above the opcode. -/
def MField.all : List MField := [.ps, .bits, .xs, .aux8, .addr]

/-- The value of a format R field in a word (R61). -/
def RField.value (w : Cmd) : RField → Nat
  | .pd => (w.extractLsb' 8 8).toNat
  | .pa => (w.extractLsb' 16 8).toNat
  | .pb => (w.extractLsb' 24 8).toNat
  | .bits => (w.extractLsb' 32 6).toNat
  | .msel => (w.extractLsb' 38 2).toNat
  | .xs => (w.extractLsb' 40 2).toNat
  | .sub => (w.extractLsb' 42 4).toNat
  | .sub2 => (w.extractLsb' 46 4).toNat
  | .mbits => (w.extractLsb' 50 6).toNat
  | .zero => (w.extractLsb' 56 8).toNat

/-- The value of a format M field in a word (R62). -/
def MField.value (w : Cmd) : MField → Nat
  | .ps => (w.extractLsb' 8 8).toNat
  | .bits => (w.extractLsb' 16 6).toNat
  | .xs => (w.extractLsb' 22 2).toNat
  | .aux8 => (w.extractLsb' 24 8).toNat
  | .addr => (w.extractLsb' 32 32).toNat

/-- R65 item 2 for a format R word that uses the listed fields. -/
def unusedZeroR (uses : List RField) (w : Cmd) : Bool :=
  RField.all.all fun f => uses.contains f || f.value w == 0

/-- R65 item 2 for a format M word that uses the listed fields. -/
def unusedZeroM (uses : List MField) (w : Cmd) : Bool :=
  MField.all.all fun f => uses.contains f || f.value w == 0

/-- R65 item 2 for a format I word, whose only field to check is `zero` (R63). -/
def unusedZeroI (w : Cmd) : Bool := (w.extractLsb' 24 8) == 0

/-- R65 item 2 for a format S word (R64). -/
def unusedZeroS (w : Cmd) : Bool := (w.extractLsb' 8 56) == 0

/-- `pd` of formats R and I. -/
def pdOf (w : Cmd) : BitVec 8 := w.extractLsb' 8 8
/-- `pa` of formats R and I. -/
def paOf (w : Cmd) : BitVec 8 := w.extractLsb' 16 8
/-- `pb` of format R. -/
def pbOf (w : Cmd) : BitVec 8 := w.extractLsb' 24 8
/-- `bits` of format R. -/
def bitsOf (w : Cmd) : BitVec 6 := w.extractLsb' 32 6
/-- `msel` of format R. -/
def mselOf (w : Cmd) : BitVec 2 := w.extractLsb' 38 2
/-- `xs` of format R. -/
def xsOf (w : Cmd) : BitVec 2 := w.extractLsb' 40 2
/-- `sub` of format R. -/
def subOf (w : Cmd) : BitVec 4 := w.extractLsb' 42 4
/-- `sub2` of format R. -/
def sub2Of (w : Cmd) : BitVec 4 := w.extractLsb' 46 4
/-- `mbits` of format R. -/
def mbitsOf (w : Cmd) : BitVec 6 := w.extractLsb' 50 6
/-- `ps` of format M. -/
def psOfM (w : Cmd) : BitVec 8 := w.extractLsb' 8 8
/-- `bits` of format M. -/
def bitsOfM (w : Cmd) : BitVec 6 := w.extractLsb' 16 6
/-- `xs` of format M. -/
def xsOfM (w : Cmd) : BitVec 2 := w.extractLsb' 22 2
/-- `aux8` of format M. -/
def auxOfM (w : Cmd) : BitVec 8 := w.extractLsb' 24 8
/-- `addr` of format M. -/
def addrOfM (w : Cmd) : BitVec 32 := w.extractLsb' 32 32
/-- `imm32` of format I. -/
def immOfI (w : Cmd) : BitVec 32 := w.extractLsb' 32 32

/-- The opcode map of R66: the command a word's opcode names, with its used fields read out, and
whether every other field is 0 (R65 item 2); `none` for an opcode outside the map (R67). -/
def parse (w : Cmd) : Option (Instr × Bool) :=
  match (w.extractLsb' 0 8).toNat with
  | 0x00 => some (.nop, unusedZeroS w)
  | 0x01 => some (.ldcfg, unusedZeroS w)
  | 0x02 => some (.clrerr, unusedZeroS w)
  | 0x10 => some (.ntt (pdOf w) (paOf w), unusedZeroR [.pd, .pa] w)
  | 0x11 => some (.intt (pdOf w) (paOf w), unusedZeroR [.pd, .pa] w)
  | 0x12 => some (.muln (pdOf w) (paOf w) (pbOf w), unusedZeroR [.pd, .pa, .pb] w)
  | 0x13 => some (.add (pdOf w) (paOf w) (pbOf w) (mselOf w) (mbitsOf w),
      unusedZeroR [.pd, .pa, .pb, .msel, .mbits] w)
  | 0x14 => some (.sub (pdOf w) (paOf w) (pbOf w) (mselOf w) (mbitsOf w),
      unusedZeroR [.pd, .pa, .pb, .msel, .mbits] w)
  | 0x15 => some (.scale (pdOf w) (paOf w) (immOfI w), unusedZeroI w)
  | 0x16 => some (.aclr, unusedZeroS w)
  | 0x17 => some (.macs (paOf w) (pbOf w), unusedZeroR [.pa, .pb] w)
  | 0x18 => some (.ared (pdOf w) (mselOf w) (mbitsOf w), unusedZeroR [.pd, .msel, .mbits] w)
  | 0x19 => some (.snorm (pdOf w) (paOf w), unusedZeroR [.pd, .pa] w)
  | 0x1A => some (.geta (pdOf w) (subOf w) (sub2Of w), unusedZeroR [.pd, .sub, .sub2] w)
  | 0x20 => some (.xinita (xsOfM w) (auxOfM w) (addrOfM w), unusedZeroM [.xs, .aux8, .addr] w)
  | 0x21 => some (.xinits (xsOfM w) (auxOfM w) (addrOfM w), unusedZeroM [.xs, .aux8, .addr] w)
  | 0x22 => some (.smpu (pdOf w) (xsOf w) (subOf w), unusedZeroR [.pd, .xs, .sub] w)
  | 0x23 => some (.smpt (xsOfM w) (addrOfM w), unusedZeroM [.xs, .addr] w)
  | 0x24 => some (.smpb (xsOfM w) (addrOfM w), unusedZeroM [.xs, .addr] w)
  | 0x25 => some (.dect (psOfM w) (auxOfM w) (addrOfM w), unusedZeroM [.ps, .aux8, .addr] w)
  | 0x26 => some (.decb (psOfM w) (auxOfM w) (addrOfM w), unusedZeroM [.ps, .aux8, .addr] w)
  | 0x27 => some (.smpg (pdOf w) (xsOf w) (subOf w), unusedZeroR [.pd, .xs, .sub] w)
  | 0x30 => some (.ser (psOfM w) (bitsOfM w) (addrOfM w), unusedZeroM [.ps, .bits, .addr] w)
  | 0x31 => some (.deser (psOfM w) (bitsOfM w) (auxOfM w) (addrOfM w),
      unusedZeroM [.ps, .bits, .aux8, .addr] w)
  | 0x32 => some (.comp (pdOf w) (paOf w) (bitsOf w) (mselOf w) (mbitsOf w),
      unusedZeroR [.pd, .pa, .bits, .msel, .mbits] w)
  | 0x33 => some (.dcmp (pdOf w) (paOf w) (bitsOf w) (mselOf w) (mbitsOf w),
      unusedZeroR [.pd, .pa, .bits, .msel, .mbits] w)
  | 0x34 => some (.rdbl (pdOf w) (paOf w) (xsOf w), unusedZeroR [.pd, .pa, .xs] w)
  | 0x35 => some (.xrnd (pdOf w) (paOf w) (mselOf w) (mbitsOf w),
      unusedZeroR [.pd, .pa, .msel, .mbits] w)
  | 0x36 => some (.recn (pdOf w) (paOf w) (pbOf w) (mselOf w) (mbitsOf w),
      unusedZeroR [.pd, .pa, .pb, .msel, .mbits] w)
  | 0x40 => some (.setup, unusedZeroS w)
  | 0x41 => some (.keygen, unusedZeroS w)
  | 0x42 => some (.encap, unusedZeroS w)
  | 0x43 => some (.enc, unusedZeroS w)
  | 0x44 => some (.decap, unusedZeroS w)
  | 0x45 => some (.dec, unusedZeroS w)
  | _ => none

/-- The static legality checks of R65, in their order. The instance matters only through `NPOLY`. -/
def decode (p : Params) (w : Cmd) : Except DecodeReject Instr :=
  match parse w with
  | none => .error .unknownOpcode
  | some (i, unusedZero) =>
    if !unusedZero then .error .unusedField
    else if !i.slotsOk p then .error .slotRange
    else if !i.widthOk then .error .widthRange
    else if !i.modulusOk then .error .modulusRange
    else if !i.selectorOk then .error .selectorRange
    else if !i.auxOk then .error .auxRange
    else .ok i

/-- The instruction the decoder of the default instance reads from the table's numbering of the bits:
a command is one 64-bit value (R49, R60), so the number is the word. -/
def decodeTableWord (nbits w : Nat) : Option Instr :=
  match decode Params.default (BitVec.ofNat 64 (w % 2 ^ nbits)) with
  | .ok i => some i
  | .error _ => none

/-! ### The encoder -/

/-- A format R word, highest field first (R61). -/
def wordR (op pd pa pb : BitVec 8) (bits : BitVec 6) (msel xs : BitVec 2) (sub sub2 : BitVec 4)
    (mbits : BitVec 6) : Cmd :=
  0#8 ++ mbits ++ sub2 ++ sub ++ xs ++ msel ++ bits ++ pb ++ pa ++ pd ++ op

/-- A format M word, highest field first (R62). -/
def wordM (op ps : BitVec 8) (bits : BitVec 6) (xs : BitVec 2) (aux8 : BitVec 8) (addr : BitVec 32) : Cmd :=
  addr ++ aux8 ++ xs ++ bits ++ ps ++ op

/-- A format I word, highest field first (R63). -/
def wordI (op pd pa : BitVec 8) (imm32 : BitVec 32) : Cmd :=
  imm32 ++ 0#8 ++ pa ++ pd ++ op

/-- A format S word (R64). -/
def wordS (op : BitVec 8) : Cmd := 0#56 ++ op

/-- The command word of a command (R61 to R64, R66), with every unused field 0. -/
def encode : Instr → Cmd
  | .nop => wordS 0x00
  | .ldcfg => wordS 0x01
  | .clrerr => wordS 0x02
  | .ntt pd pa => wordR 0x10 pd pa 0 0 0 0 0 0 0
  | .intt pd pa => wordR 0x11 pd pa 0 0 0 0 0 0 0
  | .muln pd pa pb => wordR 0x12 pd pa pb 0 0 0 0 0 0
  | .add pd pa pb msel mbits => wordR 0x13 pd pa pb 0 msel 0 0 0 mbits
  | .sub pd pa pb msel mbits => wordR 0x14 pd pa pb 0 msel 0 0 0 mbits
  | .scale pd pa imm32 => wordI 0x15 pd pa imm32
  | .aclr => wordS 0x16
  | .macs pa pb => wordR 0x17 0 pa pb 0 0 0 0 0 0
  | .ared pd msel mbits => wordR 0x18 pd 0 0 0 msel 0 0 0 mbits
  | .snorm pd pa => wordR 0x19 pd pa 0 0 0 0 0 0 0
  | .geta pd sub sub2 => wordR 0x1A pd 0 0 0 0 0 sub sub2 0
  | .xinita xs aux8 addr => wordM 0x20 0 0 xs aux8 addr
  | .xinits xs aux8 addr => wordM 0x21 0 0 xs aux8 addr
  | .smpu pd xs sub => wordR 0x22 pd 0 0 0 0 xs sub 0 0
  | .smpt xs addr => wordM 0x23 0 0 xs 0 addr
  | .smpb xs addr => wordM 0x24 0 0 xs 0 addr
  | .dect ps aux8 addr => wordM 0x25 ps 0 0 aux8 addr
  | .decb ps aux8 addr => wordM 0x26 ps 0 0 aux8 addr
  | .smpg pd xs sub => wordR 0x27 pd 0 0 0 0 xs sub 0 0
  | .ser ps bits addr => wordM 0x30 ps bits 0 0 addr
  | .deser ps bits aux8 addr => wordM 0x31 ps bits 0 aux8 addr
  | .comp pd pa bits msel mbits => wordR 0x32 pd pa 0 bits msel 0 0 0 mbits
  | .dcmp pd pa bits msel mbits => wordR 0x33 pd pa 0 bits msel 0 0 0 mbits
  | .rdbl pd pa xs => wordR 0x34 pd pa 0 0 0 xs 0 0 0
  | .xrnd pd pa msel mbits => wordR 0x35 pd pa 0 0 msel 0 0 0 mbits
  | .recn pd pa pb msel mbits => wordR 0x36 pd pa pb 0 msel 0 0 0 mbits
  | .setup => wordS 0x40
  | .keygen => wordS 0x41
  | .encap => wordS 0x42
  | .enc => wordS 0x43
  | .decap => wordS 0x44
  | .dec => wordS 0x45

end Sys2Proof
end

