-- ==== Sys2Proof/Machine/State.lean ====
section
/-! DEFINITION. The state of MMK-CORE (`10_state.md` R20 to R43) as plain data, and reset
(`70_reset_and_hazards.md` R180). -/

namespace Sys2Proof.Machine

/-- Why the machine stops. The engine's own errors are no stop: they are states (`60_exceptions.md` R160). -/
inductive Fault where
  /-- The host's access on the BMEM port names a byte that does not exist (an address that is not below
  `BMEM_BYTES`, `20_memory.md` R46); the spec does not say what the port does. Raised by the host actions
  `bmemRead` and `bmemWrite`, never by a command. Safe: the model stops. Log 10. -/
  | hostAddressOutsideBmem
deriving DecidableEq, Repr

/-- An instruction without a meaning. -/
inductive Refusal where
  /-- The instruction is not modelled. Raised by no arm of exec. Safe: the model stops. -/
  | notModelled (mnemonic : String)
deriving DecidableEq, Repr

/-- The tag of a slot (`10_state.md` R22). -/
inductive Tag where
  | empty
  | coef
  | ntt
  | raw
deriving DecidableEq, Repr

/-- A polynomial slot: its tag and its `D` cells (`10_state.md` R21). -/
structure Slot where
  tag : Tag
  c : Poly
deriving DecidableEq, Repr

/-- A stream context (`10_state.md` R26). -/
structure StreamCtx where
  valid : Bool
  kind : XofKind
  seed : List Byte
  pos : Nat
deriving DecidableEq, Repr

/-- `STATUS.STATE` (`10_state.md` R38). -/
inductive Phase where
  | idle
  | busy
  | error
deriving DecidableEq, Repr

/-- The content of `BMEM`: the bytes that differ from `Config.bmemFill`, by rising address (log 6). -/
abbrev Memory := List Host.Cell

/-- The canonical form of a memory: addresses strictly rising, no entry equal to what an unlisted
address reads as. -/
abbrev Memory.wf (m : Memory) : Prop :=
  m.Pairwise (fun x y => x.1 < y.1) ∧ ∀ x ∈ m, x.2 ≠ Config.bmemFill

/-- What the host does on the engine's ports (`10_state.md` R20, `20_memory.md` R52 to R54), one step each. -/
inductive HostAction where
  /-- present a word on the command port (R54) -/
  | command (w : Cmd)
  /-- write a control register (R53) -/
  | csrWrite (n : BitVec 6) (v : Word)
  /-- read a control register (R53) -/
  | csrRead (n : BitVec 6)
  /-- write a byte of `BMEM` (R52) -/
  | bmemWrite (a : BitVec 32) (b : Byte)
  /-- read a byte of `BMEM` (R52) -/
  | bmemRead (a : BitVec 32)
  /-- apply reset, after which `BMEM` holds the given bytes and `Config.bmemFill` elsewhere
  (`70_reset_and_hazards.md` R180; log 13) -/
  | reset (bytes : List Host.Cell)
  /-- leave the engine to itself for one step -/
  | wait
deriving DecidableEq, Repr

/-- A command in flight: the command, and how many draws each of its rejection loops gets when the
engine next attempts it (`70_reset_and_hazards.md` R190; log 5). -/
structure Flight where
  instr : Instr
  budget : Nat
deriving DecidableEq, Repr

/-- The state of MMK-CORE. -/
structure State where
  /-- the static parameters (`00_scope.md` R6 to R12), changed by nothing (log 1) -/
  params : Params
  /-- `P[0] .. P[NPOLY-1]` (R21) -/
  slots : List Slot
  /-- `ACC[0] .. ACC[D-1]` (R24) -/
  acc : List AccCell
  /-- `ACC_VALID` (R24) -/
  accValid : Bool
  /-- `AMAT`, entry (r, c) at place `r * MAXDIM + c` (R25) -/
  amat : List Poly
  /-- `A_VALID` (R25) -/
  aValid : Bool
  /-- `BMEM` (`20_memory.md` R46) -/
  bmem : Memory
  /-- `XS[0] .. XS[3]` (R26) -/
  xs : Vector StreamCtx 4
  /-- `STATUS.STATE` (R38) -/
  phase : Phase
  /-- `STATUS.CFG_VALID` (R38) -/
  cfgValid : Bool
  /-- `ERRCODE` (R39) -/
  errCode : Word
  /-- `ERRINFO` (R39) -/
  errInfo : Word
  /-- `CMDCNT` (R37) -/
  cmdCnt : Word
  /-- `CFG0` (R30) -/
  cfg0 : Word
  /-- `SIGMA0` (R32) -/
  sigma0 : Word
  /-- `SIGMA1` (R33) -/
  sigma1 : Word
  /-- `INLEN` (R34) -/
  inLen : Word
  /-- `ARG0 .. ARG11` (R35) -/
  args : Vector Word 12
  /-- the model's own: the command in flight, `none` unless `BUSY` (log 5) -/
  flight : Option Flight
  /-- the model's own: what the host does next, first action first (log 4) -/
  port : List HostAction
  /-- the model's own: what the last read of a control register returned (log 11) -/
  csrData : Word
  /-- the model's own: what the last read of `BMEM` returned (log 11) -/
  bmemData : Byte
  /-- the model's own: the number of free values used so far (log 8, log 9) -/
  freeCtr : Nat
deriving DecidableEq, Repr

/-- A slot as reset leaves it: `EMPTY` (R43); its cells are zero by log 7. -/
def Slot.blank (p : Params) : Slot := { tag := .empty, c := List.replicate p.d 0 }

/-- A stream context as reset leaves it: not valid (R43); the rest by log 7. -/
def StreamCtx.closed : StreamCtx := { valid := false, kind := .a, seed := [], pos := 0 }

/-- The state right after reset of an instance `p` whose `BMEM` holds `m` (R43, R180). -/
def State.launch (p : Params) (m : Memory) : State where
  params := p
  slots := List.replicate p.npoly (Slot.blank p)
  acc := List.replicate p.d 0
  accValid := false
  amat := List.replicate (p.maxdim * p.maxdim) (List.replicate p.d 0)
  aValid := false
  bmem := m
  xs := Vector.replicate 4 StreamCtx.closed
  phase := .idle
  cfgValid := false
  errCode := 0
  errInfo := 0
  cmdCnt := 0
  cfg0 := 0
  sigma0 := 0
  sigma1 := 0
  inLen := 0
  args := Vector.replicate 12 0
  flight := none
  port := []
  csrData := 0
  bmemData := 0
  freeCtr := 0

/-- The default instance right after reset, with nothing listed in `BMEM` (log 6) and a host that does
nothing (log 4). -/
def State.reset : State := State.launch Params.default []

end Sys2Proof.Machine
end

