-- ==== Sys2Proof/Machine/Flags.lean ====
section
/-! DEFINITION. The flags and the status of the machine: what each control register reads as
(`10_state.md` R29, R38 to R40), the fields of `CFG0` (R30) and their legality (R31 to R33). There are no
arithmetic flags (R41). -/

namespace Sys2Proof.Machine

/-- The encoding of `STATUS.STATE` (R38). -/
def Phase.code : Phase → BitVec 2
  | .idle => 0
  | .busy => 1
  | .error => 2

/-- `STATUS` (R38): reserved bits read 0. -/
def State.status (s : State) : Word :=
  0#25 ++ BitVec.ofBool s.accValid ++ BitVec.ofBool s.aValid ++ BitVec.ofBool s.cfgValid ++ 0#2 ++ s.phase.code

/-- `CFG0.M` (R30). -/
def State.cfgM (s : State) : Nat := (s.cfg0.extractLsb' 0 4).toNat

/-- `CFG0.N` (R30). -/
def State.cfgN (s : State) : Nat := (s.cfg0.extractLsb' 4 4).toNat

/-- `CFG0.KIND` (R30): 0 binary, 1 ternary. -/
def State.cfgKind (s : State) : Nat := (s.cfg0.extractLsb' 8 2).toNat

/-- `CFG0.DU` (R30). -/
def State.cfgDU (s : State) : Nat := (s.cfg0.extractLsb' 10 6).toNat

/-- `CFG0.DV` (R30). -/
def State.cfgDV (s : State) : Nat := (s.cfg0.extractLsb' 16 6).toNat

/-- The reserved bits `CFG0[31:22]` (R30). -/
def State.cfgReserved (s : State) : Nat := (s.cfg0.extractLsb' 22 10).toNat

/-- `12 * SIGMA^2 > 2^32` (R32, R33). -/
def sigmaLegal (sigma : Word) : Bool := decide (2 ^ 32 < 12 * sigma.toNat ^ 2)

/-- The content of `CFG0`, `SIGMA0` and `SIGMA1` is legal (R31 to R33). -/
def State.cfgLegal (s : State) : Bool :=
  decide (1 ≤ s.cfgM ∧ s.cfgM ≤ s.params.maxdim) && decide (1 ≤ s.cfgN ∧ s.cfgN ≤ s.params.maxdim)
    && decide (s.cfgKind ≤ 1) && decide (1 ≤ s.cfgDU ∧ s.cfgDU ≤ 32) && decide (1 ≤ s.cfgDV ∧ s.cfgDV ≤ 32)
    && s.cfgReserved == 0 && sigmaLegal s.sigma0 && sigmaLegal s.sigma1

/-- What a control register reads as (R29). Reading has no side effect (`20_memory.md` R51). -/
def State.csrValue (s : State) (n : BitVec 6) : Word :=
  match n.toNat with
  | 0x00 => 0x4D4D4B31
  | 0x01 => s.status
  | 0x02 => s.errCode
  | 0x03 => s.errInfo
  | 0x04 => s.cmdCnt
  | 0x06 => BitVec.ofNat 32 s.params.bmemBytes
  | 0x07 => BitVec.ofNat 32 (s.params.npoly + 256 * s.params.maxdim + 65536 * 4)
  | 0x08 => s.cfg0
  | 0x09 => s.sigma0
  | 0x0A => s.sigma1
  | 0x0B => s.inLen
  | 0x0C => BitVec.ofNat 32 s.params.d
  | 0x0D => BitVec.ofNat 32 s.params.q
  | 0x0E => BitVec.ofNat 32 s.params.psi
  | 0x10 => s.args[0]
  | 0x11 => s.args[1]
  | 0x12 => s.args[2]
  | 0x13 => s.args[3]
  | 0x14 => s.args[4]
  | 0x15 => s.args[5]
  | 0x16 => s.args[6]
  | 0x17 => s.args[7]
  | 0x18 => s.args[8]
  | 0x19 => s.args[9]
  | 0x1A => s.args[10]
  | 0x1B => s.args[11]
  | _ => 0

/-- A write to `CFG0`, `SIGMA0` or `SIGMA1` clears `CFG_VALID` and `A_VALID` (R36). -/
def State.endSession (s : State) : State := { s with cfgValid := false, aValid := false }

/-- A host write to a control register, in `IDLE` or `ERROR` (R29, R36): writes to read-only and to
unmapped registers are ignored. -/
def State.csrStore (s : State) (n : BitVec 6) (v : Word) : State :=
  match n.toNat with
  | 0x08 => { s.endSession with cfg0 := v }
  | 0x09 => { s.endSession with sigma0 := v }
  | 0x0A => { s.endSession with sigma1 := v }
  | 0x0B => { s with inLen := v }
  | 0x10 => { s with args := s.args.set 0 v }
  | 0x11 => { s with args := s.args.set 1 v }
  | 0x12 => { s with args := s.args.set 2 v }
  | 0x13 => { s with args := s.args.set 3 v }
  | 0x14 => { s with args := s.args.set 4 v }
  | 0x15 => { s with args := s.args.set 5 v }
  | 0x16 => { s with args := s.args.set 6 v }
  | 0x17 => { s with args := s.args.set 7 v }
  | 0x18 => { s with args := s.args.set 8 v }
  | 0x19 => { s with args := s.args.set 9 v }
  | 0x1A => { s with args := s.args.set 10 v }
  | 0x1B => { s with args := s.args.set 11 v }
  | _ => s

end Sys2Proof.Machine
end

