-- ==== Sys2Proof/Machine/Operands.lean ====
section
/-! DEFINITION. The operand forms of the commands: slots (`10_state.md` R21), the modulus select
(`00_scope.md` R18), stream contexts (R26), matrix entries (R25), `ARG` registers (R35). -/

namespace Sys2Proof.Machine

/-- Slot `P[n]`. A number with no slot behind it reads as an `EMPTY` one (no legal command names one, R65). -/
def State.slot (s : State) (n : BitVec 8) : Slot := s.slots.getD n.toNat { tag := .empty, c := [] }

/-- The coefficients of `P[n]` as unsigned integers. -/
def State.coeffs (s : State) (n : BitVec 8) : List Nat := natsOf (s.slot n).c

/-- `P[n] <- (t, v)` (R16), the values given as integers below `2^32`. -/
def State.setSlot (s : State) (n : BitVec 8) (t : Tag) (v : List Nat) : State :=
  { s with slots := s.slots.set n.toNat { tag := t, c := cellsOf v } }

/-- `Mod(msel, mbits)` (R18); `msel = 3` is illegal (R65) and never gets here. -/
def modulus (p : Params) (msel : BitVec 2) (mbits : BitVec 6) : Nat :=
  match msel.toNat with
  | 0 => p.q
  | 1 => 2 * p.q
  | _ => 2 ^ mbits.toNat

/-- `ModTag(msel)` (R18): the tag an operand under that modulus has. -/
def modTag (msel : BitVec 2) : Tag := if msel = 0 then .coef else .raw

/-- The source tags `ADD` and `SUB` accept (`41_ringarith.md` R87, `60_exceptions.md` R165). -/
def addTags (msel : BitVec 2) (ta tb : Tag) : Bool :=
  if msel = 0 then ta == tb && (ta == .coef || ta == .ntt) else ta == .raw && tb == .raw

/-- The stream context `XS[k]` (R26). -/
def State.stream (s : State) (k : BitVec 2) : StreamCtx := s.xs[k.toNat]'k.isLt

/-- `XS[k] <- x`. -/
def State.setStream (s : State) (k : BitVec 2) (x : StreamCtx) : State :=
  { s with xs := s.xs.set k.toNat x k.isLt }

/-- The context `XS[k]` with its position moved to `pos` (R27). -/
def State.seek (s : State) (k : BitVec 2) (pos : Nat) : State := s.setStream k { s.stream k with pos := pos }

/-- The matrix entry `AMAT[r][c]` (R25). -/
def State.entry (s : State) (r c : Nat) : Poly := s.amat.getD (r * s.params.maxdim + c) []

/-- `ARG` register number `k` as an unsigned integer (R35, `44_protocol.md` R136). -/
def State.arg (s : State) (k : Fin 12) : Nat := s.args[k].toNat

/-- The value a small signed number has under the modulus of `DECT` and `DECB`: `aux8 = 0` is `Q`, else
`2^aux8` (`42_sampler.md` R103). -/
def auxModulus (p : Params) (aux8 : BitVec 8) : Nat := if aux8 = 0 then p.q else 2 ^ aux8.toNat

/-- The tag that goes with it (R103). -/
def auxTag (aux8 : BitVec 8) : Tag := if aux8 = 0 then .coef else .raw

/-- The tag `DESER` gives (`43_codec.md` R115): 0 `RAW`, 1 `COEF`, 2 `NTT`. -/
def deserTag (aux8 : BitVec 8) : Tag :=
  match aux8.toNat with
  | 0 => .raw
  | 1 => .coef
  | _ => .ntt

end Sys2Proof.Machine
end

