-- ==== Sys2Proof/Machine/Sampling.lean ====
section
/-! DEFINITION. Streams and the sampling functions (`10_state.md` R27, `42_sampler.md` R96, R106 to R110).
A stream is a function from byte positions to bytes. A rejection loop is given a budget of draws and
answers `none` when that many draws do not suffice (R111; log 5). -/

namespace Sys2Proof.Machine

/-- Byte `n` of the stream of `seed` under the XOF `kind` (R11, R27): the known part of the table, else
the free value. Log 2. -/
def xofStream (p : Params) (kind : XofKind) (seed : List Byte) (n : Nat) : Byte :=
  let known := match kind with
    | .a => p.xof128
    | .s => p.xofsec
  match known.lookup seed with
  | some bytes => bytes.getD n (Config.xofByte kind seed n)
  | none => Config.xofByte kind seed n

/-- The `n` bytes of a stream from position `pos` on (R27). -/
def streamBytes (st : Nat → Byte) (pos n : Nat) : List Byte := (List.range n).map fun k => st (pos + k)

/-- `int_le(S.read(n))` at position `pos` (R14, R49). -/
def streamInt (st : Nat → Byte) (pos n : Nat) : Nat := intLe (streamBytes st pos n)

/-- A rejection loop: draws of `width` bytes each from position `pos` on, `draw` giving the values a draw
is accepted for (none: rejected, its bytes are lost), until `need` values are there; the values in order
and the position after the last draw. `none` if `budget` draws do not suffice. -/
def collect {α : Type} (draw : Nat → List α) (width : Nat) : (budget need pos : Nat) → Option (List α × Nat)
  | _, 0, pos => some ([], pos)
  | 0, _ + 1, _ => none
  | budget + 1, need + 1, pos =>
    let got := (draw pos).take (need + 1)
    match collect draw width budget (need + 1 - got.length) (pos + width) with
    | none => none
    | some (rest, pos') => some (got ++ rest, pos')

/-- One draw of `SampleUniform` (R106): `QBYTES` bytes, the low `QBITS` bits, accepted below `Q`. -/
def drawUniform (p : Params) (st : Nat → Byte) (pos : Nat) : List Nat :=
  let v := streamInt st pos (qbytes p) % 2 ^ qbits p
  if v < p.q then [v] else []

/-- `SampleUniform(S)` (R106). -/
def sampleUniform (p : Params) (st : Nat → Byte) (budget pos : Nat) : Option (List Nat × Nat) :=
  collect (drawUniform p st) (qbytes p) budget p.d pos

/-- One draw of `SampleTernaryBytes` (R107): one byte, accepted below 243. -/
def drawTernary (st : Nat → Byte) (pos : Nat) : List Byte :=
  if (st pos).toNat < 243 then [st pos] else []

/-- `SampleTernaryBytes(S)` (R107). -/
def sampleTernary (p : Params) (st : Nat → Byte) (budget pos : Nat) : Option (List Byte × Nat) :=
  collect (drawTernary st) 1 budget (szt p) pos

/-- `SampleBinaryBytes(S) = S.read(SZB)` (R109). -/
def sampleBinary (p : Params) (st : Nat → Byte) (pos : Nat) : List Byte × Nat :=
  (streamBytes st pos (szb p), pos + szb p)

/-- The five base-3 digits of a byte, least significant first (R108). -/
def trits (b : Byte) : List Nat := (List.range 5).map fun k => (b.toNat / 3 ^ k) % 3

/-- `DecodeTernary(B)` (R108): signed values in {-1, 0, 1}, the first `D` kept. -/
def decodeTernary (p : Params) (s : List Byte) : List Int :=
  ((s.flatMap trits).take p.d).map fun g => (g : Int) - 1

/-- `DecodeBinary(B)` (R109): bit `t mod 8` of byte `t // 8`, the first `D` kept. -/
def decodeBinary (p : Params) (s : List Byte) : List Int :=
  ((s.flatMap fun b => digits 1 8 b.toNat).take p.d).map fun g => (g : Int)

/-- `2^63 * fix(t)` (R96): the numerator of the draw as a fraction of `2^63`, in `(-2^63, 2^63]`. -/
def fixNum (t : BitVec 64) : Int := t.toInt + 1

/-- `2^126 * s` with `s = x*x + y*y` (R96). -/
def radiusNum (g : GaussArg) : Int := fixNum g.tx * fixNum g.tx + fixNum g.ty * fixNum g.ty

/-- `GAUSSMAP(tx, ty, σ)` (R96), kept to the three properties a model may assume: it rejects exactly when
`s = 0` or `s > 1`, gives `(0, 0)` for `s = 1`, and otherwise depends on its arguments alone: the known
part of the table, else the free value. Log 3. -/
def gaussMap (p : Params) (g : GaussArg) : Option (Int × Int) :=
  if radiusNum g = 0 ∨ 2 ^ 126 < radiusNum g then none
  else if radiusNum g = 2 ^ 126 then some (0, 0)
  else
    match p.gauss.lookup g with
    | some z => some z
    | none => some (Config.gaussValue g)

/-- One draw of `SampleGaussian` (R110): 8 bytes for `tx`, then 8 for `ty`; `z0` before `z1`, each mod `Q`. -/
def drawGaussian (p : Params) (sigma : Word) (st : Nat → Byte) (pos : Nat) : List Nat :=
  let tx := BitVec.ofNat 64 (streamInt st pos 8)
  let ty := BitVec.ofNat 64 (streamInt st (pos + 8) 8)
  match gaussMap p { tx := tx, ty := ty, sigma := sigma } with
  | none => []
  | some (z0, z1) => [imod z0 p.q, imod z1 p.q]

/-- `SampleGaussian(S, σ)` (R110), σ as the content of its register. -/
def sampleGaussian (p : Params) (sigma : Word) (st : Nat → Byte) (budget pos : Nat) : Option (List Nat × Nat) :=
  collect (drawGaussian p sigma st) 16 budget p.d pos

/-- The 64-bit word number `g` that `RandomizeDouble` reads from position `pos` on (`43_codec.md` R125). -/
def doubleWord (st : Nat → Byte) (pos g : Nat) : Nat := streamInt st (pos + 8 * g) 8

/-- `k` samples one after the other from one stream (`44_protocol.md` R148). -/
def sampleVec {α : Type} (sample : Nat → Option (α × Nat)) : (k pos : Nat) → Option (List α × Nat)
  | 0, pos => some ([], pos)
  | k + 1, pos =>
    match sample pos with
    | none => none
    | some (x, pos') =>
      match sampleVec sample k pos' with
      | none => none
      | some (xs, pos'') => some (x :: xs, pos'')

end Sys2Proof.Machine
end

