-- ==== Sys2Proof/Machine/Ops.lean ====
section
/-! DEFINITION. The shared operations: `BMEM` (`20_memory.md`), the checks of a command and their order
(`60_exceptions.md` R168), error entry (R160) and the return from it (R172), the run of an accepted command
(`44_protocol.md` R135), scratch clearing (R138). -/

namespace Sys2Proof.Machine

/-! ### `BMEM` -/

/-- The byte at an address (R46); an unlisted address reads as `Config.bmemFill` (log 6). -/
def Memory.read (m : Memory) (a : Nat) : Byte := (m.lookup a).getD Config.bmemFill

/-- Store one byte, keeping the canonical form. -/
def Memory.write : Memory → Nat → Byte → Memory
  | [], a, b => if b = Config.bmemFill then [] else [(a, b)]
  | (a', b') :: rest, a, b =>
    if a < a' then (if b = Config.bmemFill then (a', b') :: rest else (a, b) :: (a', b') :: rest)
    else if a = a' then (if b = Config.bmemFill then rest else (a, b) :: rest)
    else (a', b') :: Memory.write rest a b

/-- `MemRead(addr, n)` (R16). -/
def Memory.readBytes (m : Memory) (a n : Nat) : List Byte := (List.range n).map fun k => Memory.read m (a + k)

/-- `MemWrite(addr, n, s)` (R16), `n = |s|`. -/
def Memory.writeBytes (m : Memory) (a : Nat) : List Byte → Memory
  | [] => m
  | b :: bs => Memory.writeBytes (Memory.write m a b) (a + 1) bs

/-- The memory that holds the given bytes below `size` and `Config.bmemFill` elsewhere. -/
def Memory.ofBytes (size : Nat) (bytes : List Host.Cell) : Memory :=
  bytes.foldl (fun m x => if x.1 < size then Memory.write m x.1 x.2 else m) []

/-- The range check (R45): `addr + n <= BMEM_BYTES` on unbounded integers; an empty range always passes. -/
abbrev inBmem (p : Params) (addr n : Nat) : Prop := n = 0 ∨ addr + n ≤ p.bmemBytes

/-! ### Errors -/

/-- The errors a command can raise (`60_exceptions.md` R161). -/
inductive ErrorKind where
  | decodeError
  | parameterError
  | illegalCommand
  | emptyError
  | domainError
  | addrError
deriving DecidableEq, Repr

/-- `code(E)` (R161). -/
def ErrorKind.code : ErrorKind → Word
  | .decodeError => 1
  | .parameterError => 2
  | .illegalCommand => 3
  | .emptyError => 4
  | .domainError => 5
  | .addrError => 6

/-- ERROR ENTRY (R160) by the command word `w`: `ERRCODE`, `ERRINFO` and `STATE` are written, nothing is in
flight any more, and nothing else changes. -/
def State.raise (s : State) (e : ErrorKind) (w : Cmd) : State :=
  { s with errCode := e.code, errInfo := w.setWidth 32, phase := .error, flight := none }

/-- RETURN FROM THE ERROR STATE (R172, `40_system.md` R77) but for `STATE`, which the end of the command
`CLRERR` sets like the end of every command. -/
def State.clearError (s : State) : State := { s with errCode := 0, errInfo := 0 }

/-! ### The run of a command -/

/-- How the rule of a command ends. -/
inductive Result where
  /-- it ends; the state it leaves, but for `STATE` -/
  | done (t : State)
  /-- it raises an error -/
  | fail (e : ErrorKind)
  /-- a rejection loop has not ended within its budget of draws (`42_sampler.md` R111; log 5) -/
  | running
deriving DecidableEq, Repr

/-- A check of a rule: go on if it holds, else raise the error. -/
def require (c : Prop) [Decidable c] (e : ErrorKind) (k : Result) : Result := if c then k else .fail e

/-- The draws a rejection loop gets in this attempt: the first attempt's burst, or what the command in
flight has (log 5). -/
def State.budget (s : State) : Nat :=
  match s.flight with
  | none => Config.burst
  | some f => f.budget

/-- The end of a command without error: `STATE` becomes `IDLE` (`44_protocol.md` R135). -/
def State.finish (s : State) : State := { s with phase := .idle, flight := none }

/-- A command that has not ended: `STATE` stays `BUSY`, none of its effects is visible (R190), and its
next attempt gets twice the draws (log 5). -/
def State.keepRunning (s : State) (i : Instr) : State :=
  { s with phase := .busy, flight := some { instr := i, budget := 2 * s.budget } }

/-- The run of the accepted command `i` (R60, R135): the static checks of R65; then what the rule does to
the state whether or not it then raises (`prep`, the exceptions R160 names); then its own checks and effect. -/
def runCommand (i : Instr) (prep : State → State) (body : State → Result) (s : State) :
    Host.Outcome State Fault Refusal :=
  if i.wellFormed s.params then
    match body (prep s) with
    | .done t => .next t.finish
    | .fail e => .next ((prep s).raise e (encode i))
    | .running => .next (s.keepRunning i)
  else .next (s.raise .illegalCommand (encode i))

/-- Most rules change nothing before they raise (R160). -/
abbrev noPrep (s : State) : State := s

/-- SCRATCH CLEARING of the protocol commands (`44_protocol.md` R138). -/
def State.clearScratch (s : State) : State :=
  { s with
    slots := s.slots.map fun x => { x with tag := .empty }
    accValid := false
    xs := s.xs.map fun x => { x with valid := false } }

/-- A command of `40_system.md` R78 finds `CFG_VALID = 1`, else `ParameterError`. -/
def requireConfig (s : State) (k : Result) : Result := require (s.cfgValid = true) .parameterError k

/-- A source slot is not `EMPTY`, else `EmptyError` (`60_exceptions.md` R164). -/
def requireFull (s : State) (n : BitVec 8) (k : Result) : Result :=
  require ((s.slot n).tag ≠ .empty) .emptyError k

/-- A stream context is valid, else `EmptyError` (R164). -/
def requireStream (s : State) (k : BitVec 2) (r : Result) : Result :=
  require ((s.stream k).valid = true) .emptyError r

/-- A byte range lies inside `BMEM`, else `AddrError` (R166, `20_memory.md` R45). -/
def requireRange (s : State) (addr n : Nat) (k : Result) : Result :=
  require (inBmem s.params addr n) .addrError k

/-- The stream that the context `XS[k]` reads (`10_state.md` R27). -/
def State.streamOf (s : State) (k : BitVec 2) : Nat → Byte :=
  xofStream s.params (s.stream k).kind (s.stream k).seed

end Sys2Proof.Machine
end

