-- ==== Sys2Proof/Machine/Ring.lean ====
section
/-! DEFINITION. RingArith as pure functions (`41_ringarith.md` R80 to R82, R91): the twiddle table, the two
transforms, the pointwise and the schoolbook product. Polynomials are lists of `D` numbers. -/

namespace Sys2Proof.Machine

/-- `ZETA[k] = PSI^(brv_L(k)) mod Q` (R80). -/
def zeta (p : Params) (k : Nat) : Nat := p.psi ^ brv (logD p) k % p.q

/-- One block of a forward layer (R81): `lo` holds `f[j]`, `hi` holds `f[j+len]`, for the `len` values of `j`. -/
def fwdButterfly (q z : Nat) (lo hi : List Nat) : List Nat :=
  let t := hi.map fun x => (z * x) % q
  List.zipWith (fun (a u : Nat) => (a + u) % q) lo t ++ List.zipWith (fun (a u : Nat) => imod ((a : Int) - u) q) lo t

/-- The blocks of a forward layer of span `len` (R81): block after block, the table index going up by 1. -/
def fwdBlocks (p : Params) (len : Nat) : Nat → Nat → List Nat → List Nat
  | 0, _, _ => []
  | blocks + 1, k, f =>
    fwdButterfly p.q (zeta p k) (f.take len) ((f.drop len).take len)
      ++ fwdBlocks p len blocks (k + 1) (f.drop (2 * len))

/-- The last `n` forward layers from layer number `i` on: layer `i` has span `D / 2^(i+1)` and the table
indices `2^i .. 2^(i+1) - 1` (R81). -/
def fwdLayers (p : Params) : Nat → Nat → List Nat → List Nat
  | 0, _, f => f
  | n + 1, i, f => fwdLayers p n (i + 1) (fwdBlocks p (p.d / 2 ^ (i + 1)) (2 ^ i) (2 ^ i) f)

/-- `NTTF(f)` (R81). -/
def nttf (p : Params) (f : List Nat) : List Nat := fwdLayers p (logD p) 0 f

/-- One block of an inverse layer (R82). -/
def invButterfly (q z : Nat) (lo hi : List Nat) : List Nat :=
  List.zipWith (fun (t u : Nat) => (t + u) % q) lo hi
    ++ List.zipWith (fun (t u : Nat) => imod (z * ((u : Int) - t)) q) lo hi

/-- The blocks of an inverse layer of span `len` (R82): the table index going down by 1. -/
def invBlocks (p : Params) (len : Nat) : Nat → Nat → List Nat → List Nat
  | 0, _, _ => []
  | blocks + 1, k, f =>
    invButterfly p.q (zeta p k) (f.take len) ((f.drop len).take len)
      ++ invBlocks p len blocks (k - 1) (f.drop (2 * len))

/-- The last `n` inverse layers from span `len` and table index `k` on (R82): a layer has `D / (2*len)`
blocks, each taking one index. -/
def invLayers (p : Params) : Nat → Nat → Nat → List Nat → List Nat
  | 0, _, _, f => f
  | n + 1, len, k, f =>
    invLayers p n (2 * len) (k - p.d / (2 * len)) (invBlocks p len (p.d / (2 * len)) k f)

/-- `NTTI(F)` (R82): the layers, then every coefficient times `DINV`. -/
def ntti (p : Params) (f : List Nat) : List Nat :=
  (invLayers p (logD p) 1 (p.d - 1) f).map fun x => (x * dinv p) % p.q

/-- Coefficient by coefficient `(x[j] * y[j]) mod q` (R86). -/
def mulPointwise (q : Nat) (x y : List Nat) : List Nat := List.zipWith (fun a b => (a * b) % q) x y

/-- Coefficient by coefficient `(a[t] + x[t] * y[t]) mod q` (`44_protocol.md` R140, R142, R151). -/
def mulAdd (q : Nat) (a x y : List Nat) : List Nat :=
  List.zipWith (fun c m => (c + m) % q) a (List.zipWith (fun u v => u * v) x y)

/-- `g` times the monomial `x` in the ring where `x^D = -1`. -/
def mulX (g : List Int) : List Int :=
  match g.getLast? with
  | none => []
  | some last => (-last) :: g.dropLast

/-- `acc` plus the negacyclic product of `f` and `g`, on unbounded integers (R91 before wrapping,
`44_protocol.md` R145): for each `i` it adds `f[i]` times `x^i * g`, whose cell `i+j` is `g[j]` where
`i+j < D` and whose cell `i+j-D` is `-g[j]` otherwise. -/
def polyMulAdd (acc : List Int) : List Int → List Int → List Int
  | [], _ => acc
  | a :: f, g => polyMulAdd (List.zipWith (fun c x => c + a * x) acc g) f (mulX g)

/-- The signed representative of a residue in `(-Q/2, Q/2]` (R93). -/
def signedRep (q x : Nat) : Int := if 2 * x ≤ q then (x : Int) else (x : Int) - q

end Sys2Proof.Machine
end

