-- ==== Sys2Proof/Machine/RingArith.lean ====
section
/-! DEFINITION. The RingArith commands (`41_ringarith.md` R84 to R94). -/

namespace Sys2Proof.Machine

/-- A command with one source slot whose tag `accepts`: the destination gets tag and coefficients from it. -/
def unarySlot (pd pa : BitVec 8) (accepts : Tag → Bool) (result : Tag → List Nat → Tag × List Nat) (s : State) :
    Result :=
  requireFull s pa <|
  require (accepts (s.slot pa).tag = true) .domainError <|
  .done (s.setSlot pd (result (s.slot pa).tag (s.coeffs pa)).1 (result (s.slot pa).tag (s.coeffs pa)).2)

/-- A command with two source slots whose tags `accepts`; the destination gets the tag and coefficients
computed from them. -/
def binarySlot (pd pa pb : BitVec 8) (accepts : Tag → Tag → Bool) (tag : Tag)
    (result : List Nat → List Nat → List Nat) (s : State) : Result :=
  requireFull s pa <|
  requireFull s pb <|
  require (accepts (s.slot pa).tag (s.slot pb).tag = true) .domainError <|
  .done (s.setSlot pd tag (result (s.coeffs pa) (s.coeffs pb)))

/-- Coefficient by coefficient `(a + b) mod m` (R87). -/
def addMod (m : Nat) (x y : List Nat) : List Nat := List.zipWith (fun a b => (a + b) % m) x y

/-- Coefficient by coefficient `(a - b) mod m`, never negative (R88). -/
def subMod (m : Nat) (x y : List Nat) : List Nat := List.zipWith (fun (a b : Nat) => imod ((a : Int) - b) m) x y

/-- `NTT pd pa` (R84). -/
def execNtt (pd pa : BitVec 8) (s : State) : Host.Outcome State Fault Refusal :=
  runCommand (.ntt pd pa) noPrep
    (fun s => unarySlot pd pa (fun t => t == .coef) (fun _ f => (.ntt, nttf s.params f)) s) s

/-- `INTT pd pa` (R85). -/
def execIntt (pd pa : BitVec 8) (s : State) : Host.Outcome State Fault Refusal :=
  runCommand (.intt pd pa) noPrep
    (fun s => unarySlot pd pa (fun t => t == .ntt) (fun _ f => (.coef, ntti s.params f)) s) s

/-- `MULN pd pa pb` (R86). -/
def execMuln (pd pa pb : BitVec 8) (s : State) : Host.Outcome State Fault Refusal :=
  runCommand (.muln pd pa pb) noPrep
    (fun s => binarySlot pd pa pb (fun a b => a == .ntt && b == .ntt) .ntt (mulPointwise s.params.q) s) s

/-- `ADD pd pa pb msel mbits` (R87). -/
def execAdd (pd pa pb : BitVec 8) (msel : BitVec 2) (mbits : BitVec 6) (s : State) :
    Host.Outcome State Fault Refusal :=
  runCommand (.add pd pa pb msel mbits) noPrep
    (fun s => binarySlot pd pa pb (addTags msel) (s.slot pa).tag (addMod (modulus s.params msel mbits)) s) s

/-- `SUB pd pa pb msel mbits` (R88). -/
def execSub (pd pa pb : BitVec 8) (msel : BitVec 2) (mbits : BitVec 6) (s : State) :
    Host.Outcome State Fault Refusal :=
  runCommand (.sub pd pa pb msel mbits) noPrep
    (fun s => binarySlot pd pa pb (addTags msel) (s.slot pa).tag (subMod (modulus s.params msel mbits)) s) s

/-- Coefficient by coefficient `(x * (imm32 mod Q)) mod Q` (R89). -/
def scaleBy (q imm : Nat) (x : List Nat) : List Nat := x.map fun a => (a * (imm % q)) % q

/-- `SCALE pd pa imm32` (R89). -/
def execScale (pd pa : BitVec 8) (imm32 : BitVec 32) (s : State) : Host.Outcome State Fault Refusal :=
  runCommand (.scale pd pa imm32) noPrep
    (fun s => unarySlot pd pa (fun t => t == .coef || t == .ntt) (fun t f => (t, scaleBy s.params.q imm32.toNat f)) s) s

/-- `ACLR` (R90). -/
def execAclr (s : State) : Host.Outcome State Fault Refusal :=
  runCommand .aclr noPrep
    (fun s => .done { s with acc := List.replicate s.params.d 0, accValid := true }) s

/-- The accumulator after adding the negacyclic product of `f` and `g`, each cell wrapped to 64-bit two's
complement (R91). Wrapping once at the end is the same as wrapping at each update, since the wrapped
addition commutes (R91). DEDUCED, log 14. -/
def macAcc (acc : List AccCell) (f g : List Nat) : List AccCell :=
  (polyMulAdd (acc.map BitVec.toInt) (f.map Int.ofNat) (g.map Int.ofNat)).map (BitVec.ofInt 64)

/-- The source tags `MACS` accepts (R91): `COEF` and `RAW`. -/
def macTag (t : Tag) : Bool := t == .coef || t == .raw

/-- `MACS pa pb` (R91). -/
def execMacs (pa pb : BitVec 8) (s : State) : Host.Outcome State Fault Refusal :=
  runCommand (.macs pa pb) noPrep
    (fun s =>
      require (s.accValid = true) .emptyError <|
      requireFull s pa <|
      requireFull s pb <|
      require ((macTag (s.slot pa).tag && macTag (s.slot pb).tag) = true) .domainError <|
      .done { s with acc := macAcc s.acc (s.coeffs pa) (s.coeffs pb) }) s

/-- `ARED pd msel mbits` (R92). -/
def execAred (pd : BitVec 8) (msel : BitVec 2) (mbits : BitVec 6) (s : State) :
    Host.Outcome State Fault Refusal :=
  runCommand (.ared pd msel mbits) noPrep
    (fun s =>
      require (s.accValid = true) .emptyError <|
      .done (s.setSlot pd (modTag msel) (s.acc.map fun a => imod a.toInt (modulus s.params msel mbits)))) s

/-- `SNORM pd pa` (R93): the signed value as its 32-bit two's complement pattern. -/
def execSnorm (pd pa : BitVec 8) (s : State) : Host.Outcome State Fault Refusal :=
  runCommand (.snorm pd pa) noPrep
    (fun s => unarySlot pd pa (fun t => t == .coef)
      (fun _ f => (.raw, f.map fun x => imod (signedRep s.params.q x) (2 ^ 32))) s) s

/-- `GETA pd sub sub2` (R94): row `sub`, column `sub2`. -/
def execGeta (pd : BitVec 8) (sub sub2 : BitVec 4) (s : State) : Host.Outcome State Fault Refusal :=
  runCommand (.geta pd sub sub2) noPrep
    (fun s =>
      requireConfig s <|
      require (sub.toNat < s.cfgM ∧ sub2.toNat < s.cfgN) .parameterError <|
      require (s.aValid = true) .emptyError <|
      .done (s.setSlot pd .ntt (natsOf (s.entry sub.toNat sub2.toNat)))) s

end Sys2Proof.Machine
end

