-- ==== Sys2Proof/Machine/Codec.lean ====
section
/-! DEFINITION. The Codec commands (`43_codec.md` R114 to R120). -/

namespace Sys2Proof.Machine

/-- Every value is below a bound. -/
def allBelow (m : Nat) (v : List Nat) : Bool := v.all fun x => decide (x < m)

/-- `SER ps bits addr` (R114). -/
def execSer (ps : BitVec 8) (bits : BitVec 6) (addr : BitVec 32) (s : State) :
    Host.Outcome State Fault Refusal :=
  runCommand (.ser ps bits addr) noPrep
    (fun s =>
      requireFull s ps <|
      requireRange s addr.toNat (packedLen s.params bits.toNat) <|
      require (allBelow (2 ^ bits.toNat) (s.coeffs ps) = true) .decodeError <|
      .done { s with bmem := Memory.writeBytes s.bmem addr.toNat (serialize s.params (s.coeffs ps) bits.toNat) }) s

/-- `DESER ps bits aux8 addr` (R115). -/
def execDeser (ps : BitVec 8) (bits : BitVec 6) (aux8 : BitVec 8) (addr : BitVec 32) (s : State) :
    Host.Outcome State Fault Refusal :=
  runCommand (.deser ps bits aux8 addr) noPrep
    (fun s =>
      let n := packedLen s.params bits.toNat
      let v := deserialize s.params (Memory.readBytes s.bmem addr.toNat n) bits.toNat
      requireRange s addr.toNat n <|
      require (n ≤ s.inLen.toNat) .decodeError <|
      require (aux8 = 0 ∨ allBelow s.params.q v = true) .decodeError <|
      .done (s.setSlot ps (deserTag aux8) v)) s

/-- `COMP pd pa bits msel mbits` (R116). -/
def execComp (pd pa : BitVec 8) (bits : BitVec 6) (msel : BitVec 2) (mbits : BitVec 6) (s : State) :
    Host.Outcome State Fault Refusal :=
  runCommand (.comp pd pa bits msel mbits) noPrep
    (fun s => unarySlot pd pa (fun t => t == modTag msel)
      (fun _ f => (.raw, f.map fun x => compress x bits.toNat (modulus s.params msel mbits))) s) s

/-- `DCMP pd pa bits msel mbits` (R117). -/
def execDcmp (pd pa : BitVec 8) (bits : BitVec 6) (msel : BitVec 2) (mbits : BitVec 6) (s : State) :
    Host.Outcome State Fault Refusal :=
  runCommand (.dcmp pd pa bits msel mbits) noPrep
    (fun s => unarySlot pd pa (fun t => t == .raw)
      (fun _ f => (modTag msel, f.map fun x => decompress x bits.toNat (modulus s.params msel mbits))) s) s

/-- `RDBL pd pa xs` (R118). -/
def execRdbl (pd pa : BitVec 8) (xs : BitVec 2) (s : State) : Host.Outcome State Fault Refusal :=
  runCommand (.rdbl pd pa xs) noPrep
    (fun s =>
      requireFull s pa <|
      requireStream s xs <|
      require ((s.slot pa).tag = .coef) .domainError <|
      .done ((s.seek xs ((s.stream xs).pos + doubleBytes s.params)).setSlot pd .raw
        (randomizeDouble s.params.q (doubleWord (s.streamOf xs) (s.stream xs).pos) (s.coeffs pa)))) s

/-- `XRND pd pa msel mbits` (R119). -/
def execXrnd (pd pa : BitVec 8) (msel : BitVec 2) (mbits : BitVec 6) (s : State) :
    Host.Outcome State Fault Refusal :=
  runCommand (.xrnd pd pa msel mbits) noPrep
    (fun s => unarySlot pd pa (fun t => t == modTag msel)
      (fun _ f => (.raw, f.map fun x => crossRound x (modulus s.params msel mbits))) s) s

/-- `RECN pd pa pb msel mbits` (R120). -/
def execRecn (pd pa pb : BitVec 8) (msel : BitVec 2) (mbits : BitVec 6) (s : State) :
    Host.Outcome State Fault Refusal :=
  runCommand (.recn pd pa pb msel mbits) noPrep
    (fun s =>
      requireFull s pa <|
      requireFull s pb <|
      require ((s.slot pa).tag = modTag msel ∧ (s.slot pb).tag = .raw) .domainError <|
      require (allBelow 2 (s.coeffs pb) = true) .decodeError <|
      .done (s.setSlot pd .raw
        (List.zipWith (fun w h => reconcile w h (modulus s.params msel mbits)) (s.coeffs pa) (s.coeffs pb)))) s

end Sys2Proof.Machine
end

