-- ==== Sys2Proof/Machine/Sampler.lean ====
section
/-! DEFINITION. The Sampler commands (`42_sampler.md` R98 to R105). -/

namespace Sys2Proof.Machine

/-- Open the stream context `XS[xs]` on a seed of `len` bytes in `BMEM` (R98, R99). -/
def openStream (kind : XofKind) (xs : BitVec 2) (len addr : Nat) (s : State) : Result :=
  requireRange s addr len <|
  .done (s.setStream xs { valid := true, kind := kind, seed := Memory.readBytes s.bmem addr len, pos := 0 })

/-- The end of a sampling command: its effect on the state with the context moved on, or another attempt
where the loop has not ended (R97, R111). -/
def sampled {α : Type} (xs : BitVec 2) (r : Option (α × Nat)) (effect : α → State → State) (s : State) : Result :=
  match r with
  | none => .running
  | some (x, pos) => .done (effect x (s.seek xs pos))

/-- `XINITA xs aux8 addr` (R98). -/
def execXinita (xs : BitVec 2) (aux8 : BitVec 8) (addr : BitVec 32) (s : State) :
    Host.Outcome State Fault Refusal :=
  runCommand (.xinita xs aux8 addr) noPrep (openStream .a xs aux8.toNat addr.toNat) s

/-- `XINITS xs aux8 addr` (R99). -/
def execXinits (xs : BitVec 2) (aux8 : BitVec 8) (addr : BitVec 32) (s : State) :
    Host.Outcome State Fault Refusal :=
  runCommand (.xinits xs aux8 addr) noPrep (openStream .s xs aux8.toNat addr.toNat) s

/-- `SMPU pd xs sub` (R100): the result is tagged `COEF` for `sub = 0`, `NTT` for `sub = 1`. -/
def execSmpu (pd : BitVec 8) (xs : BitVec 2) (sub : BitVec 4) (s : State) :
    Host.Outcome State Fault Refusal :=
  runCommand (.smpu pd xs sub) noPrep
    (fun s =>
      requireStream s xs <|
      sampled xs (sampleUniform s.params (s.streamOf xs) s.budget (s.stream xs).pos)
        (fun v t => t.setSlot pd (if sub = 0 then .coef else .ntt) v) s) s

/-- `SMPT xs addr` (R101). -/
def execSmpt (xs : BitVec 2) (addr : BitVec 32) (s : State) : Host.Outcome State Fault Refusal :=
  runCommand (.smpt xs addr) noPrep
    (fun s =>
      requireStream s xs <|
      requireRange s addr.toNat (szt s.params) <|
      sampled xs (sampleTernary s.params (s.streamOf xs) s.budget (s.stream xs).pos)
        (fun b t => { t with bmem := Memory.writeBytes t.bmem addr.toNat b }) s) s

/-- `SMPB xs addr` (R102). -/
def execSmpb (xs : BitVec 2) (addr : BitVec 32) (s : State) : Host.Outcome State Fault Refusal :=
  runCommand (.smpb xs addr) noPrep
    (fun s =>
      requireStream s xs <|
      requireRange s addr.toNat (szb s.params) <|
      sampled xs (some (sampleBinary s.params (s.streamOf xs) (s.stream xs).pos))
        (fun b t => { t with bmem := Memory.writeBytes t.bmem addr.toNat b }) s) s

/-- No byte of the string is outside the ternary code (R103, `60_exceptions.md` R162). -/
def ternaryOk (b : List Byte) : Bool := b.all fun x => decide (x.toNat < 243)

/-- `DECT ps aux8 addr` (R103). -/
def execDect (ps aux8 : BitVec 8) (addr : BitVec 32) (s : State) : Host.Outcome State Fault Refusal :=
  runCommand (.dect ps aux8 addr) noPrep
    (fun s =>
      requireRange s addr.toNat (szt s.params) <|
      require (szt s.params ≤ s.inLen.toNat) .decodeError <|
      require (ternaryOk (Memory.readBytes s.bmem addr.toNat (szt s.params)) = true) .decodeError <|
      .done (s.setSlot ps (auxTag aux8)
        ((decodeTernary s.params (Memory.readBytes s.bmem addr.toNat (szt s.params))).map
          fun t => imod t (auxModulus s.params aux8)))) s

/-- `DECB ps aux8 addr` (R104). -/
def execDecb (ps aux8 : BitVec 8) (addr : BitVec 32) (s : State) : Host.Outcome State Fault Refusal :=
  runCommand (.decb ps aux8 addr) noPrep
    (fun s =>
      requireRange s addr.toNat (szb s.params) <|
      require (szb s.params ≤ s.inLen.toNat) .decodeError <|
      .done (s.setSlot ps (auxTag aux8)
        ((decodeBinary s.params (Memory.readBytes s.bmem addr.toNat (szb s.params))).map Int.toNat))) s

/-- `SMPG pd xs sub` (R105): σ0 for `sub = 0`, σ1 for `sub = 1`. -/
def execSmpg (pd : BitVec 8) (xs : BitVec 2) (sub : BitVec 4) (s : State) :
    Host.Outcome State Fault Refusal :=
  runCommand (.smpg pd xs sub) noPrep
    (fun s =>
      requireConfig s <|
      requireStream s xs <|
      sampled xs
        (sampleGaussian s.params (if sub = 0 then s.sigma0 else s.sigma1) (s.streamOf xs) s.budget (s.stream xs).pos)
        (fun v t => t.setSlot pd .coef v) s) s

end Sys2Proof.Machine
end

