-- ==== Sys2Proof/Machine/Scheme.lean ====
section
/-! DEFINITION. The protocol operations as pure functions of their byte strings (`44_protocol.md` R139 to
R151). `none`: a rejection loop has not ended within the budget of draws (R190; log 5). -/

namespace Sys2Proof.Machine

/-- What a protocol operation takes from the configuration: the static parameters, the fields of `CFG0`,
the two Gaussian registers, and the draws each rejection loop gets. -/
structure Setting where
  p : Params
  /-- `M` -/
  m : Nat
  /-- `N` -/
  n : Nat
  /-- `KIND = 1` -/
  ternary : Bool
  /-- `DU` -/
  du : Nat
  /-- `DV` -/
  dv : Nat
  sigma0 : Word
  sigma1 : Word
  budget : Nat
deriving DecidableEq, Repr

/-! ### Sizes (R150) -/

/-- `SZS`. -/
def Setting.szs (g : Setting) : Nat := if g.ternary then szt g.p else szb g.p

/-- `SZU = ceil(D*DU/8)`. -/
def Setting.szu (g : Setting) : Nat := packedLen g.p g.du

/-- `SZV = ceil(D*DV/8)`. -/
def Setting.szv (g : Setting) : Nat := packedLen g.p g.dv

/-- `PKLEN = N * PKPOLY`. -/
def Setting.pklen (g : Setting) : Nat := g.n * pkpoly g.p

/-- `SKLEN = M * SZS`. -/
def Setting.sklen (g : Setting) : Nat := g.m * g.szs

/-- `SCTLEN = M * SZU`. -/
def Setting.sctlen (g : Setting) : Nat := g.m * g.szu

/-! ### Stream keys (R148) -/

/-- The key of matrix entry (`i`, `j`): `seed ‖ byte(i) ‖ byte(j) ‖ 'A'`. -/
def matrixKey (seed : List Byte) (i j : Nat) : List Byte :=
  seed ++ [BitVec.ofNat 8 i, BitVec.ofNat 8 j, 0x41]

/-- The key of the secret vector: `seed ‖ 'S'`. -/
def secretKey (seed : List Byte) : List Byte := seed ++ [0x53]

/-- The key of the key-generation error vector: `seed ‖ 'E'`. -/
def errorKey (seed : List Byte) : List Byte := seed ++ [0x45]

/-- The key of the shared randomness: `seed ‖ 'R'`. -/
def sharedKey (seed : List Byte) : List Byte := seed ++ [0x52]

/-- The key of the shared error: `seed ‖ 'e'`. -/
def sharedErrorKey (seed : List Byte) : List Byte := seed ++ [0x65]

/-- The key of the individual randomness of recipient `k`: `seed ‖ le32(k) ‖ 'r'`. -/
def recipientKey (seed : List Byte) (k : Nat) : List Byte := seed ++ le32 k ++ [0x72]

/-! ### Small secrets (R141) -/

/-- `SmallSample(S)`. -/
def smallSample (g : Setting) (st : Nat → Byte) (pos : Nat) : Option (List Byte × Nat) :=
  if g.ternary then sampleTernary g.p st g.budget pos else some (sampleBinary g.p st pos)

/-- `SmallDecode(B)`, signed values. -/
def smallDecode (g : Setting) (s : List Byte) : List Int :=
  if g.ternary then decodeTernary g.p s else decodeBinary g.p s

/-- Signed values as residues mod `Q`. -/
def residues (q : Nat) (v : List Int) : List Nat := v.map fun t => imod t q

/-- The all-zero polynomial. -/
def zeroPoly (p : Params) : List Nat := List.replicate p.d 0

/-! ### The operations -/

/-- `SETUP` (R139): entry (`i`, `j`), drawn directly as an NTT-domain polynomial. -/
def matrixEntry (g : Setting) (seed : List Byte) (i j : Nat) : Option (List Nat) :=
  (sampleUniform g.p (xofStream g.p .a (matrixKey seed i j)) g.budget 0).map Prod.fst

/-- `SETUP` (R139): the rows `i < M` of entries `j < N`. -/
def matrixRows (g : Setting) (seed : List Byte) : Option (List (List (List Nat))) :=
  allSome ((List.range g.m).map fun i => allSome ((List.range g.n).map fun j => matrixEntry g seed i j))

/-- One column of `KEYGEN` (R140): `NTTI` of `ehat[j] + sum over i of AMAT[i][j] * shat[i]`. -/
def keygenColumn (g : Setting) (matrix : Nat → Nat → List Nat) (shat : List (List Nat)) (j : Nat) (ehat : List Nat) :
    List Nat :=
  ntti g.p (shat.zipIdx.foldl (fun b x => mulAdd g.p.q b (matrix x.2 j) x.1) ehat)

/-- `KEYGEN` (R140): the public key and the secret key. -/
def keygen (g : Setting) (matrix : Nat → Nat → List Nat) (seed : List Byte) : Option (List Byte × List Byte) :=
  match sampleVec (smallSample g (xofStream g.p .s (secretKey seed))) g.m 0,
      sampleVec (smallSample g (xofStream g.p .s (errorKey seed))) g.n 0 with
  | some (sb, _), some (eb, _) =>
    let shat := sb.map fun b => nttf g.p (residues g.p.q (smallDecode g b))
    let ehat := eb.map fun b => nttf g.p (residues g.p.q (smallDecode g b))
    some (ehat.zipIdx.flatMap fun x => serialize g.p (keygenColumn g matrix shat x.2 x.1) (qbits g.p), sb.flatten)
  | _, _ => none

/-- One row of the shared ciphertext (R142): `compress(NTTI(sum over j of AMAT[i][j] * rhat[j]) + eu[i])`. -/
def sharedRow (g : Setting) (matrix : Nat → Nat → List Nat) (rhat : List (List Nat)) (i : Nat) (eu : List Nat) :
    List Byte :=
  let a := rhat.zipIdx.foldl (fun a x => mulAdd g.p.q a (matrix i x.2) x.1) (zeroPoly g.p)
  let c := List.zipWith (fun x e => (x + e) % g.p.q) (ntti g.p a) eu
  serialize g.p (c.map fun x => compress x g.du g.p.q) g.du

/-- `EncShared(seed)` (R142): `rhat` and the shared ciphertext. -/
def encShared (g : Setting) (matrix : Nat → Nat → List Nat) (seed : List Byte) :
    Option (List (List Nat) × List Byte) :=
  match sampleVec (sampleGaussian g.p g.sigma0 (xofStream g.p .s (sharedKey seed)) g.budget) g.n 0,
      sampleVec (sampleGaussian g.p g.sigma0 (xofStream g.p .s (sharedErrorKey seed)) g.budget) g.m 0 with
  | some (r, _), some (eu, _) =>
    let rhat := r.map (nttf g.p)
    some (rhat, eu.zipIdx.flatMap fun x => sharedRow g matrix rhat x.2 x.1)
  | _, _ => none

/-- Polynomial `j` of a serialized public key (R151). -/
def pkPoly (p : Params) (pkbytes : List Byte) (j : Nat) : List Nat :=
  deserialize p (pkbytes.drop (j * pkpoly p)) (qbits p)

/-- `EncIndiv(seed, k, pkbytes, rhat)` (R151): `ck`, and the position at which recipient `k`'s stream goes on. -/
def encIndiv (g : Setting) (seed : List Byte) (k : Nat) (pkbytes : List Byte) (rhat : List (List Nat)) :
    Option (List Nat × Nat) :=
  match sampleGaussian g.p g.sigma1 (xofStream g.p .s (recipientKey seed k)) g.budget 0 with
  | none => none
  | some (y, pos) =>
    let a := rhat.zipIdx.foldl (fun a x => mulAdd g.p.q a (nttf g.p (pkPoly g.p pkbytes x.2)) x.1) (zeroPoly g.p)
    some (List.zipWith (fun x e => (x + e) % g.p.q) (ntti g.p a) y, pos)

/-- The hint and the key bytes of recipient `k` in `ENCAP` (R143). -/
def encapOne (g : Setting) (seed : List Byte) (rhat : List (List Nat)) (pk : Nat → List Byte) (k : Nat) :
    Option (List Byte × List Byte) :=
  match encIndiv g seed k (pk k) rhat with
  | none => none
  | some (ck, pos) =>
    let t := randomizeDouble g.p.q (doubleWord (xofStream g.p .s (recipientKey seed k)) pos) ck
    some (serialize g.p (t.map fun x => crossRound x (2 * g.p.q)) 1,
      serialize g.p (t.map fun x => compress x 1 (2 * g.p.q)) 1)

/-- `ENCAP` (R143): the shared ciphertext, and hint and key of each recipient. `pk k` is the public key of
recipient `k`. -/
def encap (g : Setting) (matrix : Nat → Nat → List Nat) (seed : List Byte) (nr : Nat) (pk : Nat → List Byte) :
    Option (List Byte × List (List Byte × List Byte)) :=
  match encShared g matrix seed with
  | none => none
  | some (rhat, sct) =>
    match allSome ((List.range nr).map (encapOne g seed rhat pk)) with
    | none => none
    | some hk => some (sct, hk)

/-- The individual ciphertext of recipient `k` in `ENC` (R144); `msg` is the recipient's message. -/
def encOne (g : Setting) (seed : List Byte) (rhat : List (List Nat)) (pk msg : Nat → List Byte) (k : Nat) :
    Option (List Byte) :=
  match encIndiv g seed k (pk k) rhat with
  | none => none
  | some (ck, _) =>
    let mb := deserialize g.p (msg k) 1
    let v := List.zipWith (fun c m => compress ((c + decompress m 1 g.p.q) % g.p.q) g.dv g.p.q) ck mb
    some (serialize g.p v g.dv)

/-- `ENC` (R144): the shared ciphertext, and the individual ciphertext of each recipient. -/
def enc (g : Setting) (matrix : Nat → Nat → List Nat) (seed : List Byte) (nr : Nat) (pk msg : Nat → List Byte) :
    Option (List Byte × List (List Byte)) :=
  match encShared g matrix seed with
  | none => none
  | some (rhat, sct) =>
    match allSome ((List.range nr).map (encOne g seed rhat pk msg)) with
    | none => none
    | some cts => some (sct, cts)

/-- `DecapW(skbytes, sctbytes)` (R145): the inner product of the compressed shared ciphertext and the
secret, on the schoolbook path, modulo `2^DU`. -/
def decapW (g : Setting) (sk sct : List Byte) : List Nat :=
  let acc := (List.range g.m).foldl
    (fun acc i =>
      polyMulAdd acc ((deserialize g.p (sct.drop (i * g.szu)) g.du).map Int.ofNat)
        (smallDecode g ((sk.drop (i * g.szs)).take g.szs)))
    (List.replicate g.p.d 0)
  acc.map fun x => imod x (2 ^ g.du)

/-- `DECAP` (R146): the session key recovered from the hint. -/
def decap (g : Setting) (sk sct hint : List Byte) : List Byte :=
  serialize g.p
    (List.zipWith (fun w h => reconcile w h (2 ^ g.du)) (decapW g sk sct) (deserialize g.p hint 1)) 1

/-- `DEC` (R147): the message recovered from the individual ciphertext. -/
def dec (g : Setting) (sk sct ict : List Byte) : List Byte :=
  serialize g.p
    (List.zipWith (fun (w v : Nat) => compress (imod ((decompress v g.dv (2 ^ g.du) : Int) - w) (2 ^ g.du)) 1 (2 ^ g.du))
      (decapW g sk sct) (deserialize g.p ict g.dv)) 1

end Sys2Proof.Machine
end

