-- ==== Sys2Proof/Machine/Protocol.lean ====
section
/-! DEFINITION. The protocol commands `SETUP`, `KEYGEN`, `ENCAP`, `ENC`, `DECAP`, `DEC` (`44_protocol.md` R135
to R150). Each clears the scratch (R138), makes its checks in the order of R149, reads all its inputs, then
writes its outputs in the order its rule lists them (R150). -/

namespace Sys2Proof.Machine

/-- The configuration a protocol command runs under (R135, R141). -/
def State.setting (s : State) : Setting where
  p := s.params
  m := s.cfgM
  n := s.cfgN
  ternary := s.cfgKind == 1
  du := s.cfgDU
  dv := s.cfgDV
  sigma0 := s.sigma0
  sigma1 := s.sigma1
  budget := s.budget

/-- The matrix entries a command reads (`10_state.md` R25). -/
def State.matrix (s : State) (i j : Nat) : List Nat := natsOf (s.entry i j)

/-- The seed input: `ARG1` bytes at `ARG0` (R136). -/
def State.seed (s : State) : List Byte := Memory.readBytes s.bmem (s.arg 0) (s.arg 1)

/-- The public key of recipient `k`: `PKLEN` bytes at `ARG2 + k * PKLEN` (R151). -/
def State.pkOf (s : State) (k : Nat) : List Byte :=
  Memory.readBytes s.bmem (s.arg 2 + k * s.setting.pklen) s.setting.pklen

/-- The message of recipient `k`: `SZB` bytes at `ARG7 + k * SZB` (R144). -/
def State.msgOf (s : State) (k : Nat) : List Byte :=
  Memory.readBytes s.bmem (s.arg 7 + k * szb s.params) (szb s.params)

/-- Items 2 and, for the seed, R136 of the check order R149. -/
def requireSeed (s : State) (k : Result) : Result :=
  requireConfig s <| require (s.arg 1 ≤ 250) .parameterError k

/-- Item 3 of R149. -/
def requireMatrix (s : State) (k : Result) : Result := require (s.aValid = true) .emptyError k

/-- Every one of the `NR*N*D` public-key coefficients is below `Q` (R143, item 6 of R149). -/
def State.pksOk (s : State) (nr : Nat) : Bool :=
  (List.range nr).all fun k =>
    (List.range s.cfgN).all fun j => allBelow s.params.q (pkPoly s.params (s.pkOf k) j)

/-- `BMEM` with the outputs written one after the other: later ones win where they overlap (R150). -/
def State.output (s : State) (outs : List (Nat × List Byte)) : State :=
  { s with bmem := outs.foldl (fun m x => Memory.writeBytes m x.1 x.2) s.bmem }

/-- `AMAT` after `SETUP` (R139): the entries `i < M`, `j < N` are the sampled ones, every other entry is
unspecified: free values below `Q`. Log 8. -/
def State.newMatrix (s : State) (rows : List (List (List Nat))) : List Poly :=
  (List.range (s.params.maxdim * s.params.maxdim)).map fun k =>
    match (rows[k / s.params.maxdim]?).bind fun row => row[k % s.params.maxdim]? with
    | some f => cellsOf f
    | none =>
      (List.range s.params.d).map fun j =>
        BitVec.ofNat 32
          (Config.freeCoef s.freeCtr (k / s.params.maxdim) (k % s.params.maxdim) j % s.params.q)

/-- `SETUP` (R139). -/
def execSetup (s : State) : Host.Outcome State Fault Refusal :=
  runCommand .setup State.clearScratch
    (fun s =>
      requireSeed s <|
      requireRange s (s.arg 0) (s.arg 1) <|
      match matrixRows s.setting s.seed with
      | none => .running
      | some rows => .done { s with amat := s.newMatrix rows, aValid := true, freeCtr := s.freeCtr + 1 }) s

/-- `KEYGEN` (R140). -/
def execKeygen (s : State) : Host.Outcome State Fault Refusal :=
  runCommand .keygen State.clearScratch
    (fun s =>
      requireSeed s <|
      requireMatrix s <|
      requireRange s (s.arg 0) (s.arg 1) <|
      requireRange s (s.arg 2) s.setting.pklen <|
      requireRange s (s.arg 3) s.setting.sklen <|
      match keygen s.setting s.matrix s.seed with
      | none => .running
      | some (pk, sk) => .done (s.output [(s.arg 2, pk), (s.arg 3, sk)])) s

/-- `ENCAP` (R143). -/
def execEncap (s : State) : Host.Outcome State Fault Refusal :=
  runCommand .encap State.clearScratch
    (fun s =>
      requireSeed s <|
      requireMatrix s <|
      requireRange s (s.arg 0) (s.arg 1) <|
      requireRange s (s.arg 2) (s.arg 4 * s.setting.pklen) <|
      requireRange s (s.arg 5) s.setting.sctlen <|
      requireRange s (s.arg 6) (s.arg 4 * szb s.params) <|
      requireRange s (s.arg 7) (s.arg 4 * szb s.params) <|
      require (s.arg 4 * s.setting.pklen ≤ s.arg 3) .decodeError <|
      require (s.pksOk (s.arg 4) = true) .decodeError <|
      match encap s.setting s.matrix s.seed (s.arg 4) s.pkOf with
      | none => .running
      | some (sct, hk) =>
        .done (s.output [(s.arg 5, sct), (s.arg 6, hk.flatMap Prod.fst), (s.arg 7, hk.flatMap Prod.snd)])) s

/-- `ENC` (R144). -/
def execEnc (s : State) : Host.Outcome State Fault Refusal :=
  runCommand .enc State.clearScratch
    (fun s =>
      requireSeed s <|
      requireMatrix s <|
      requireRange s (s.arg 0) (s.arg 1) <|
      requireRange s (s.arg 2) (s.arg 4 * s.setting.pklen) <|
      requireRange s (s.arg 7) (s.arg 4 * szb s.params) <|
      requireRange s (s.arg 5) s.setting.sctlen <|
      requireRange s (s.arg 6) (s.arg 4 * s.setting.szv) <|
      require (s.arg 4 * s.setting.pklen ≤ s.arg 3) .decodeError <|
      require (s.arg 4 * szb s.params ≤ s.arg 8) .decodeError <|
      require (s.pksOk (s.arg 4) = true) .decodeError <|
      match enc s.setting s.matrix s.seed (s.arg 4) s.pkOf s.msgOf with
      | none => .running
      | some (sct, cts) => .done (s.output [(s.arg 5, sct), (s.arg 6, cts.flatten)])) s

/-- The secret key `DECAP` and `DEC` read: `SKLEN` bytes at `ARG0` (R136). -/
def State.skBytes (s : State) : List Byte := Memory.readBytes s.bmem (s.arg 0) s.setting.sklen

/-- The shared ciphertext `DECAP` and `DEC` read: `SCTLEN` bytes at `ARG2` (R136). -/
def State.sctBytes (s : State) : List Byte := Memory.readBytes s.bmem (s.arg 2) s.setting.sctlen

/-- The checks `DECAP` and `DEC` share (R146, R147), `len` being the length of the individual ciphertext. -/
def requireDecap (s : State) (len : Nat) (k : Result) : Result :=
  requireConfig s <|
  requireRange s (s.arg 0) s.setting.sklen <|
  requireRange s (s.arg 2) s.setting.sctlen <|
  requireRange s (s.arg 4) len <|
  requireRange s (s.arg 6) (szb s.params) <|
  require (s.setting.sklen ≤ s.arg 1) .decodeError <|
  require (s.setting.sctlen ≤ s.arg 3) .decodeError <|
  require (len ≤ s.arg 5) .decodeError <|
  require (s.setting.ternary = false ∨ ternaryOk s.skBytes = true) .decodeError k

/-- `DECAP` (R146). -/
def execDecap (s : State) : Host.Outcome State Fault Refusal :=
  runCommand .decap State.clearScratch
    (fun s =>
      requireDecap s (szb s.params) <|
      .done (s.output
        [(s.arg 6, decap s.setting s.skBytes s.sctBytes (Memory.readBytes s.bmem (s.arg 4) (szb s.params)))])) s

/-- `DEC` (R147). -/
def execDec (s : State) : Host.Outcome State Fault Refusal :=
  runCommand .dec State.clearScratch
    (fun s =>
      requireDecap s s.setting.szv <|
      .done (s.output
        [(s.arg 6, dec s.setting s.skBytes s.sctBytes (Memory.readBytes s.bmem (s.arg 4) s.setting.szv))])) s

end Sys2Proof.Machine
end

