-- ==== Sys2Proof/Machine/System.lean ====
section
/-! DEFINITION. The system commands `NOP`, `LDCFG`, `CLRERR` (`40_system.md` R75 to R77). -/

namespace Sys2Proof.Machine

/-- `NOP` (R75). -/
def execNop (s : State) : Host.Outcome State Fault Refusal :=
  runCommand .nop noPrep (fun s => .done s) s

/-- `LDCFG` (R76): `CFG_VALID` is 1 if the configuration is legal; else it is 0 and `ParameterError` is raised. -/
def execLdcfg (s : State) : Host.Outcome State Fault Refusal :=
  runCommand .ldcfg (fun s => { s with cfgValid := false })
    (fun s => require (s.cfgLegal = true) .parameterError <| .done { s with cfgValid := true }) s

/-- `CLRERR` (R77). -/
def execClrerr (s : State) : Host.Outcome State Fault Refusal :=
  runCommand .clrerr noPrep (fun s => .done s.clearError) s

end Sys2Proof.Machine
end

