-- ==== Sys2Proof/Machine/Dispatch.lean ====
section
/-! DEFINITION. The meaning of each command, one arm per row of the opcode map (`30_encoding.md` R66). -/

namespace Sys2Proof.Machine

def exec (i : Instr) (s : State) : Host.Outcome State Fault Refusal :=
  match i with
  | .nop => Sys2Proof.Machine.execNop s
  | .ldcfg => Sys2Proof.Machine.execLdcfg s
  | .clrerr => Sys2Proof.Machine.execClrerr s
  | .ntt pd pa => Sys2Proof.Machine.execNtt pd pa s
  | .intt pd pa => Sys2Proof.Machine.execIntt pd pa s
  | .muln pd pa pb => Sys2Proof.Machine.execMuln pd pa pb s
  | .add pd pa pb msel mbits => Sys2Proof.Machine.execAdd pd pa pb msel mbits s
  | .sub pd pa pb msel mbits => Sys2Proof.Machine.execSub pd pa pb msel mbits s
  | .scale pd pa imm32 => Sys2Proof.Machine.execScale pd pa imm32 s
  | .aclr => Sys2Proof.Machine.execAclr s
  | .macs pa pb => Sys2Proof.Machine.execMacs pa pb s
  | .ared pd msel mbits => Sys2Proof.Machine.execAred pd msel mbits s
  | .snorm pd pa => Sys2Proof.Machine.execSnorm pd pa s
  | .geta pd sub sub2 => Sys2Proof.Machine.execGeta pd sub sub2 s
  | .xinita xs aux8 addr => Sys2Proof.Machine.execXinita xs aux8 addr s
  | .xinits xs aux8 addr => Sys2Proof.Machine.execXinits xs aux8 addr s
  | .smpu pd xs sub => Sys2Proof.Machine.execSmpu pd xs sub s
  | .smpt xs addr => Sys2Proof.Machine.execSmpt xs addr s
  | .smpb xs addr => Sys2Proof.Machine.execSmpb xs addr s
  | .dect ps aux8 addr => Sys2Proof.Machine.execDect ps aux8 addr s
  | .decb ps aux8 addr => Sys2Proof.Machine.execDecb ps aux8 addr s
  | .smpg pd xs sub => Sys2Proof.Machine.execSmpg pd xs sub s
  | .ser ps bits addr => Sys2Proof.Machine.execSer ps bits addr s
  | .deser ps bits aux8 addr => Sys2Proof.Machine.execDeser ps bits aux8 addr s
  | .comp pd pa bits msel mbits => Sys2Proof.Machine.execComp pd pa bits msel mbits s
  | .dcmp pd pa bits msel mbits => Sys2Proof.Machine.execDcmp pd pa bits msel mbits s
  | .rdbl pd pa xs => Sys2Proof.Machine.execRdbl pd pa xs s
  | .xrnd pd pa msel mbits => Sys2Proof.Machine.execXrnd pd pa msel mbits s
  | .recn pd pa pb msel mbits => Sys2Proof.Machine.execRecn pd pa pb msel mbits s
  | .setup => Sys2Proof.Machine.execSetup s
  | .keygen => Sys2Proof.Machine.execKeygen s
  | .encap => Sys2Proof.Machine.execEncap s
  | .enc => Sys2Proof.Machine.execEnc s
  | .decap => Sys2Proof.Machine.execDecap s
  | .dec => Sys2Proof.Machine.execDec s

end Sys2Proof.Machine
end

