-- ==== Sys2Proof/Machine/Ports.lean ====
section
/-! DEFINITION. The three ports of the engine (`20_memory.md` R52 to R54, `60_exceptions.md` R171), reset
(`70_reset_and_hazards.md` R180), and the engine's own move (R190). -/

namespace Sys2Proof.Machine

/-- ACCEPTANCE of a command (`30_encoding.md` R60, `10_state.md` R37): `CMDCNT` goes up by 1 and `STATE` is
`BUSY`; nothing is in flight from before. -/
def State.accept (s : State) : State := { s with cmdCnt := s.cmdCnt + 1, phase := .busy, flight := none }

/-- The one word the engine accepts in state `ERROR` (R171). -/
def clrerrWord : Cmd := 0x0000000000000002

/-- A word on the command port (R54, R60, R171): in `IDLE` it is accepted, decoded and run, an illegal
one raising `IllegalCommand` (R163); in `ERROR` only the `CLRERR` word is accepted; in `BUSY` none is. -/
def commandPort (w : Cmd) (s : State) : Host.Outcome State Fault Refusal :=
  match s.phase with
  | .busy => .next s
  | .error => if w = clrerrWord then exec .clrerr s.accept else .next s
  | .idle =>
    match decode s.params w with
    | .ok i => exec i s.accept
    | .error _ => .next (s.accept.raise .illegalCommand w)

/-- A host write to a control register (R53): dropped while `BUSY`. -/
def csrWritePort (n : BitVec 6) (v : Word) (s : State) : Host.Outcome State Fault Refusal :=
  match s.phase with
  | .busy => .next s
  | .idle | .error => .next (s.csrStore n v)

/-- A host read of a control register, at any time (R53). -/
def csrReadPort (n : BitVec 6) (s : State) : Host.Outcome State Fault Refusal :=
  .next { s with csrData := s.csrValue n }

/-- A host write to a byte of `BMEM` (R52): dropped while `BUSY`. -/
def bmemWritePort (a : BitVec 32) (b : Byte) (s : State) : Host.Outcome State Fault Refusal :=
  match s.phase with
  | .busy => .next s
  | .idle | .error =>
    if a.toNat < s.params.bmemBytes then .next { s with bmem := Memory.write s.bmem a.toNat b }
    else .fault .hostAddressOutsideBmem

/-- A host read of a byte of `BMEM` (R52): an unspecified byte while `BUSY` (log 9). -/
def bmemReadPort (a : BitVec 32) (s : State) : Host.Outcome State Fault Refusal :=
  match s.phase with
  | .busy => .next { s with bmemData := Config.freeByte s.freeCtr, freeCtr := s.freeCtr + 1 }
  | .idle | .error =>
    if a.toNat < s.params.bmemBytes then .next { s with bmemData := Memory.read s.bmem a.toNat }
    else .fault .hostAddressOutsideBmem

/-- Reset (R180): exactly the state of `10_state.md` R43, whatever the engine was doing, `BMEM` holding what
the host action brings (log 13); the host goes on with what it does next. -/
def resetPort (bytes : List Host.Cell) (s : State) : Host.Outcome State Fault Refusal :=
  .next
    { State.launch s.params (Memory.ofBytes s.params.bmemBytes bytes) with
      port := s.port
      csrData := s.csrData
      bmemData := s.bmemData
      freeCtr := s.freeCtr }

/-- The engine left to itself: in `BUSY` it makes the next attempt at the command in flight (R190; log 5);
in `IDLE` and `ERROR` nothing happens (R176). -/
def enginePort (s : State) : Host.Outcome State Fault Refusal :=
  match s.phase, s.flight with
  | .busy, some f => exec f.instr s
  | _, _ => .next s

/-- One host action on the state without that action. -/
def hostPort (x : HostAction) (s : State) : Host.Outcome State Fault Refusal :=
  match x with
  | .command w => commandPort w s
  | .csrWrite n v => csrWritePort n v s
  | .csrRead n => csrReadPort n s
  | .bmemWrite a b => bmemWritePort a b s
  | .bmemRead a => bmemReadPort a s
  | .reset bytes => resetPort bytes s
  | .wait => enginePort s

/-- What one step does: the host's next action, or, when the host does nothing more, the engine's own move. -/
def advance (s : State) : Host.Outcome State Fault Refusal :=
  match s.port with
  | [] => enginePort s
  | x :: rest => hostPort x { s with port := rest }

/-- The host presents the word `w` next (log 4). -/
def State.present (s : State) (w : Cmd) : State := { s with port := .command w :: s.port }

/-- The command word that the low `nbits` bits of a number are. -/
def wordOfBits (nbits w : Nat) : Cmd := BitVec.ofNat 64 (w % 2 ^ nbits)

end Sys2Proof.Machine
end

