-- ==== Sys2Proof/Machine/Step.lean ====
section
/-! DEFINITION. One step of the machine, and where the next command comes from (log 4). -/

namespace Sys2Proof.Machine

/-- One step: the host's next action on its ports, or the engine's own move. -/
def step (s : State) : Host.Outcome State Fault Refusal := advance s

/-- The state in which the next step presents the given command word on the command port. -/
def State.withFetchWord (s : State) (nbits w : Nat) : State := s.present (wordOfBits nbits w)

end Sys2Proof.Machine
end

