-- ==== Sys2Proof/Safety.lean ====
section
/-! DEFINITION. The terms claims use: what a slot or a stretch of `BMEM` holds, the frames of the commands,
the invariants of the machine, and the tables of `60_exceptions.md`: which errors a command can raise
(R177), for which causes (R162, R164 to R167), and which bytes it touches. -/

namespace Sys2Proof.Machine

/-! ### What stands where -/

/-- Coefficient `j` of `P[n]`. -/
def State.coeff (s : State) (n : BitVec 8) (j : Nat) : Nat := (s.coeffs n).getD j 0

/-- `P[n]` holds the tag and the `D` coefficients `f 0 .. f (D-1)`. -/
def State.Holds (s : State) (n : BitVec 8) (tag : Tag) (f : Nat → Nat) : Prop :=
  (s.slot n).tag = tag ∧ (s.coeffs n).length = s.params.d ∧ ∀ j, j < s.params.d → s.coeff n j = f j

/-- The address `a` lies in the byte range `r` = (first address, length). -/
abbrev within (r : Nat × Nat) (a : Nat) : Prop := r.1 ≤ a ∧ a < r.1 + r.2

/-- `BMEM` holds the bytes `l` from address `addr` on, but where a range of `later` covers them (R150). -/
def Memory.Holds (m : Memory) (addr : Nat) (l : List Byte) (later : List (Nat × Nat)) : Prop :=
  ∀ k, (h : k < l.length) → (∀ r ∈ later, ¬within r (addr + k)) → Memory.read m (addr + k) = l[k]

/-- Outside the given ranges every byte of `m'` is what it is in `m`. -/
def Memory.SameOutside (m m' : Memory) (ranges : List (Nat × Nat)) : Prop :=
  ∀ a, (∀ r ∈ ranges, ¬within r a) → Memory.read m' a = Memory.read m a

/-- The state with one more host action, before those that already wait. -/
def State.offer (s : State) (x : HostAction) : State := { s with port := x :: s.port }

/-! ### Frames of a command that has ended without error -/

/-- Nothing but the slot `P[pd]` changed (`STATE` is `IDLE`, nothing is in flight). -/
def SlotFrame (s t : State) (pd : BitVec 8) : Prop :=
  t = { s with slots := t.slots, phase := .idle, flight := none } ∧ ∀ n, n ≠ pd → t.slot n = s.slot n

/-- Nothing but the slot `P[pd]` and the position of `XS[k]` changed; the position is `pos` now. -/
def SampleFrame (s t : State) (pd : BitVec 8) (k : BitVec 2) (pos : Nat) : Prop :=
  t = { s with slots := t.slots, xs := t.xs, phase := .idle, flight := none } ∧
    (∀ n, n ≠ pd → t.slot n = s.slot n) ∧
    t.stream k = { s.stream k with pos := pos } ∧ ∀ k', k' ≠ k → t.stream k' = s.stream k'

/-- Nothing but the bytes of the given ranges changed. -/
def StoreFrame (s t : State) (ranges : List (Nat × Nat)) : Prop :=
  t = { s with bmem := t.bmem, phase := .idle, flight := none } ∧ Memory.SameOutside s.bmem t.bmem ranges

/-- Nothing but the bytes of the given ranges and the position of `XS[k]` changed; the position is `pos` now. -/
def SampleStoreFrame (s t : State) (ranges : List (Nat × Nat)) (k : BitVec 2) (pos : Nat) : Prop :=
  t = { s with bmem := t.bmem, xs := t.xs, phase := .idle, flight := none } ∧
    Memory.SameOutside s.bmem t.bmem ranges ∧
    t.stream k = { s.stream k with pos := pos } ∧ ∀ k', k' ≠ k → t.stream k' = s.stream k'

/-- The scratch is cleared (`44_protocol.md` R138). -/
def State.ScratchCleared (s : State) : Prop :=
  (∀ x ∈ s.slots, x.tag = .empty) ∧ s.accValid = false ∧ ∀ k, (s.stream k).valid = false

/-- A protocol command has ended: nothing but the scratch and the bytes of the given ranges changed. -/
def ProtocolFrame (s t : State) (ranges : List (Nat × Nat)) : Prop :=
  t = { s with
        slots := t.slots, accValid := t.accValid, xs := t.xs, bmem := t.bmem, phase := .idle, flight := none } ∧
    t.ScratchCleared ∧ Memory.SameOutside s.bmem t.bmem ranges

/-! ### Invariants -/

/-- `BMEM` is in canonical form and lists no address outside the memory (`20_memory.md` R46). -/
abbrev State.MemoryOk (s : State) : Prop :=
  Memory.wf s.bmem ∧ ∀ x ∈ s.bmem, x.1 < s.params.bmemBytes

/-- A valid configuration is a legal one, and a valid matrix stands under a legal configuration
(`40_system.md` R76, `10_state.md` R36). -/
abbrev State.ConfigOk (s : State) : Prop :=
  (s.cfgValid = true → s.cfgLegal = true) ∧ (s.aValid = true → s.cfgLegal = true)

/-- The register files have the sizes of `10_state.md` R21, R24 to R26. -/
abbrev State.ShapeOk (s : State) : Prop :=
  s.slots.length = s.params.npoly ∧ (∀ x ∈ s.slots, x.c.length = s.params.d) ∧
    s.acc.length = s.params.d ∧
    s.amat.length = s.params.maxdim * s.params.maxdim ∧ (∀ f ∈ s.amat, f.length = s.params.d) ∧
    ∀ k : Fin 4, s.xs[k].seed.length ≤ 255

/-- Every coefficient of a slot tagged `COEF` or `NTT`, and of the matrix, is in `[0, Q)` (`10_state.md`
R23, R25). -/
abbrev State.ResiduesOk (s : State) : Prop :=
  (∀ x ∈ s.slots, x.tag = .coef ∨ x.tag = .ntt → ∀ c ∈ x.c, c.toNat < s.params.q) ∧
    ∀ f ∈ s.amat, ∀ c ∈ f, c.toNat < s.params.q

/-- The error registers describe the error of the current `ERROR` state and are 0 otherwise (`10_state.md`
R39, `60_exceptions.md` R173), and a command is in flight exactly while the state is `BUSY`. -/
abbrev State.ErrorOk (s : State) : Prop :=
  (s.phase = .error → 1 ≤ s.errCode.toNat ∧ s.errCode.toNat ≤ 6) ∧
    (s.phase ≠ .error → s.errCode = 0 ∧ s.errInfo = 0) ∧
    (s.phase = .busy ↔ s.flight.isSome = true) ∧
    s.flight.all (fun f => f.instr.wellFormed s.params) = true

/-- The invariants of the data of the machine, in every state and while a command runs. -/
structure State.Sound (s : State) : Prop where
  legal : s.params.Legal
  memory : s.MemoryOk
  config : s.ConfigOk
  shape : s.ShapeOk
  residues : s.ResiduesOk

/-! ### Tables of the commands -/

/-- The protocol commands (`44_protocol.md`). -/
def isProtocol : Instr → Bool
  | .setup | .keygen | .encap | .enc | .decap | .dec => true
  | .nop | .ldcfg | .clrerr | .ntt _ _ | .intt _ _ | .muln _ _ _ | .add _ _ _ _ _ | .sub _ _ _ _ _
  | .scale _ _ _ | .aclr | .macs _ _ | .ared _ _ _ | .snorm _ _ | .geta _ _ _ | .xinita _ _ _
  | .xinits _ _ _ | .smpu _ _ _ | .smpt _ _ | .smpb _ _ | .dect _ _ _ | .decb _ _ _ | .smpg _ _ _
  | .ser _ _ _ | .deser _ _ _ _ | .comp _ _ _ _ _ | .dcmp _ _ _ _ _ | .rdbl _ _ _ | .xrnd _ _ _ _
  | .recn _ _ _ _ _ => false

/-- The commands that sample by rejection and may never end (`70_reset_and_hazards.md` R190): `SMPU`,
`SMPT`, `SMPG`, `SETUP`, `KEYGEN` with `KIND = 1`, `ENCAP`, `ENC`. -/
def mayRunOn (i : Instr) (s : State) : Prop :=
  match i with
  | .smpu _ _ _ | .smpt _ _ | .smpg _ _ _ | .setup | .encap | .enc => True
  | .keygen => s.cfgKind = 1
  | .nop | .ldcfg | .clrerr | .ntt _ _ | .intt _ _ | .muln _ _ _ | .add _ _ _ _ _ | .sub _ _ _ _ _
  | .scale _ _ _ | .aclr | .macs _ _ | .ared _ _ _ | .snorm _ _ | .geta _ _ _ | .xinita _ _ _
  | .xinits _ _ _ | .smpb _ _ | .dect _ _ _ | .decb _ _ _
  | .ser _ _ _ | .deser _ _ _ _ | .comp _ _ _ _ _ | .dcmp _ _ _ _ _ | .rdbl _ _ _ | .xrnd _ _ _ _
  | .recn _ _ _ _ _ | .decap | .dec => False

/-- The errors a command can raise besides `IllegalCommand` (`60_exceptions.md` R177). -/
def allowedErrors : Instr → List ErrorKind
  | .nop | .clrerr | .aclr => []
  | .ldcfg => [.parameterError]
  | .ntt _ _ | .intt _ _ | .muln _ _ _ | .add _ _ _ _ _ | .sub _ _ _ _ _ | .scale _ _ _ | .snorm _ _
  | .comp _ _ _ _ _ | .dcmp _ _ _ _ _ | .xrnd _ _ _ _ => [.emptyError, .domainError]
  | .macs _ _ => [.emptyError, .domainError]
  | .ared _ _ _ => [.emptyError]
  | .geta _ _ _ => [.parameterError, .emptyError]
  | .xinita _ _ _ | .xinits _ _ _ => [.addrError]
  | .smpu _ _ _ => [.emptyError]
  | .smpg _ _ _ => [.parameterError, .emptyError]
  | .smpt _ _ | .smpb _ _ => [.emptyError, .addrError]
  | .dect _ _ _ | .decb _ _ _ => [.addrError, .decodeError]
  | .ser _ _ _ => [.emptyError, .addrError, .decodeError]
  | .deser _ _ _ _ => [.addrError, .decodeError]
  | .rdbl _ _ _ => [.emptyError, .domainError]
  | .recn _ _ _ _ _ => [.emptyError, .domainError, .decodeError]
  | .setup => [.parameterError, .addrError]
  | .keygen => [.parameterError, .emptyError, .addrError]
  | .encap | .enc => [.parameterError, .emptyError, .addrError, .decodeError]
  | .decap | .dec => [.parameterError, .addrError, .decodeError]

/-- The causes of `ParameterError` (R167). -/
def parameterCause (i : Instr) (s : State) : Prop :=
  match i with
  | .ldcfg => s.cfgLegal = false
  | .geta _ r c => s.cfgValid = false ∨ s.cfgM ≤ r.toNat ∨ s.cfgN ≤ c.toNat
  | .smpg _ _ _ | .decap | .dec => s.cfgValid = false
  | .setup | .keygen | .encap | .enc => s.cfgValid = false ∨ 250 < s.arg 1
  | .nop | .clrerr | .ntt _ _ | .intt _ _ | .muln _ _ _ | .add _ _ _ _ _ | .sub _ _ _ _ _ | .scale _ _ _
  | .aclr | .macs _ _ | .ared _ _ _ | .snorm _ _ | .xinita _ _ _ | .xinits _ _ _ | .smpu _ _ _ | .smpt _ _
  | .smpb _ _ | .dect _ _ _ | .decb _ _ _ | .ser _ _ _ | .deser _ _ _ _ | .comp _ _ _ _ _ | .dcmp _ _ _ _ _
  | .rdbl _ _ _ | .xrnd _ _ _ _ | .recn _ _ _ _ _ => False

/-- The causes of `EmptyError` (R164). -/
def emptyCause (i : Instr) (s : State) : Prop :=
  match i with
  | .ntt _ pa | .intt _ pa | .scale _ pa _ | .snorm _ pa => (s.slot pa).tag = .empty
  | .comp _ pa _ _ _ | .dcmp _ pa _ _ _ | .xrnd _ pa _ _ => (s.slot pa).tag = .empty
  | .muln _ pa pb | .add _ pa pb _ _ | .sub _ pa pb _ _ | .recn _ pa pb _ _ =>
    (s.slot pa).tag = .empty ∨ (s.slot pb).tag = .empty
  | .macs pa pb => s.accValid = false ∨ (s.slot pa).tag = .empty ∨ (s.slot pb).tag = .empty
  | .ared _ _ _ => s.accValid = false
  | .geta _ _ _ | .keygen | .encap | .enc => s.aValid = false
  | .smpu _ k _ | .smpg _ k _ | .smpt k _ | .smpb k _ => (s.stream k).valid = false
  | .ser ps _ _ => (s.slot ps).tag = .empty
  | .rdbl _ pa k => (s.slot pa).tag = .empty ∨ (s.stream k).valid = false
  | .nop | .ldcfg | .clrerr | .aclr | .xinita _ _ _ | .xinits _ _ _ | .dect _ _ _ | .decb _ _ _
  | .deser _ _ _ _ | .setup | .decap | .dec => False

/-- The causes of `DomainError` where no source is `EMPTY` (R165): a source tag that is not accepted. -/
def domainCause (i : Instr) (s : State) : Prop :=
  match i with
  | .ntt _ pa | .snorm _ pa | .rdbl _ pa _ => (s.slot pa).tag ≠ .coef
  | .intt _ pa => (s.slot pa).tag ≠ .ntt
  | .muln _ pa pb => ¬((s.slot pa).tag = .ntt ∧ (s.slot pb).tag = .ntt)
  | .add _ pa pb msel _ | .sub _ pa pb msel _ =>
    if msel = 0 then
      ¬((s.slot pa).tag = .coef ∧ (s.slot pb).tag = .coef ∨ (s.slot pa).tag = .ntt ∧ (s.slot pb).tag = .ntt)
    else ¬((s.slot pa).tag = .raw ∧ (s.slot pb).tag = .raw)
  | .scale _ pa _ => ¬((s.slot pa).tag = .coef ∨ (s.slot pa).tag = .ntt)
  | .macs pa pb =>
    ¬(((s.slot pa).tag = .coef ∨ (s.slot pa).tag = .raw) ∧ ((s.slot pb).tag = .coef ∨ (s.slot pb).tag = .raw))
  | .comp _ pa _ msel _ | .xrnd _ pa msel _ => (s.slot pa).tag ≠ (if msel = 0 then .coef else .raw)
  | .dcmp _ pa _ _ _ => (s.slot pa).tag ≠ .raw
  | .recn _ pa pb msel _ => (s.slot pa).tag ≠ (if msel = 0 then .coef else .raw) ∨ (s.slot pb).tag ≠ .raw
  | .nop | .ldcfg | .clrerr | .aclr | .ared _ _ _ | .geta _ _ _ | .xinita _ _ _ | .xinits _ _ _ | .smpu _ _ _
  | .smpt _ _ | .smpb _ _ | .smpg _ _ _ | .dect _ _ _ | .decb _ _ _ | .ser _ _ _ | .deser _ _ _ _
  | .setup | .keygen | .encap | .enc | .decap | .dec => False

/-- The byte ranges of `BMEM` a command writes if it ends without error, each as (first address, length). -/
def outputRanges (i : Instr) (s : State) : List (Nat × Nat) :=
  match i with
  | .smpt _ addr => [(addr.toNat, szt s.params)]
  | .smpb _ addr => [(addr.toNat, szb s.params)]
  | .ser _ bits addr => [(addr.toNat, packedLen s.params bits.toNat)]
  | .keygen => [(s.arg 2, s.setting.pklen), (s.arg 3, s.setting.sklen)]
  | .encap => [(s.arg 5, s.setting.sctlen), (s.arg 6, s.arg 4 * szb s.params), (s.arg 7, s.arg 4 * szb s.params)]
  | .enc => [(s.arg 5, s.setting.sctlen), (s.arg 6, s.arg 4 * s.setting.szv)]
  | .decap | .dec => [(s.arg 6, szb s.params)]
  | .nop | .ldcfg | .clrerr | .ntt _ _ | .intt _ _ | .muln _ _ _ | .add _ _ _ _ _ | .sub _ _ _ _ _
  | .scale _ _ _ | .aclr | .macs _ _ | .ared _ _ _ | .snorm _ _ | .geta _ _ _ | .xinita _ _ _ | .xinits _ _ _
  | .smpu _ _ _ | .dect _ _ _ | .decb _ _ _ | .smpg _ _ _ | .deser _ _ _ _ | .comp _ _ _ _ _
  | .dcmp _ _ _ _ _ | .rdbl _ _ _ | .xrnd _ _ _ _ | .recn _ _ _ _ _ | .setup => []

/-- The byte ranges of `BMEM` a command reads. -/
def inputRanges (i : Instr) (s : State) : List (Nat × Nat) :=
  match i with
  | .xinita _ aux8 addr | .xinits _ aux8 addr => [(addr.toNat, aux8.toNat)]
  | .dect _ _ addr => [(addr.toNat, szt s.params)]
  | .decb _ _ addr => [(addr.toNat, szb s.params)]
  | .deser _ bits _ addr => [(addr.toNat, packedLen s.params bits.toNat)]
  | .setup | .keygen => [(s.arg 0, s.arg 1)]
  | .encap => [(s.arg 0, s.arg 1), (s.arg 2, s.arg 4 * s.setting.pklen)]
  | .enc => [(s.arg 0, s.arg 1), (s.arg 2, s.arg 4 * s.setting.pklen), (s.arg 7, s.arg 4 * szb s.params)]
  | .decap => [(s.arg 0, s.setting.sklen), (s.arg 2, s.setting.sctlen), (s.arg 4, szb s.params)]
  | .dec => [(s.arg 0, s.setting.sklen), (s.arg 2, s.setting.sctlen), (s.arg 4, s.setting.szv)]
  | .nop | .ldcfg | .clrerr | .ntt _ _ | .intt _ _ | .muln _ _ _ | .add _ _ _ _ _ | .sub _ _ _ _ _
  | .scale _ _ _ | .aclr | .macs _ _ | .ared _ _ _ | .snorm _ _ | .geta _ _ _ | .smpu _ _ _ | .smpt _ _
  | .smpb _ _ | .smpg _ _ _ | .ser _ _ _ | .comp _ _ _ _ _ | .dcmp _ _ _ _ _ | .rdbl _ _ _ | .xrnd _ _ _ _
  | .recn _ _ _ _ _ => []

/-- The cause of `AddrError` (R166): a range the command needs, input or output, is not inside `BMEM`. -/
def addrCause (i : Instr) (s : State) : Prop :=
  ∃ r ∈ inputRanges i s ++ outputRanges i s, ¬inBmem s.params r.1 r.2

/-- A byte of a ternary secret that no ternary secret has (R162). -/
def badTrit (l : List Byte) : Prop := ∃ b ∈ l, 243 ≤ b.toNat

/-- A public-key coefficient that is not below `Q`, among the first `NR` keys (R162). -/
def badKey (s : State) : Prop :=
  ∃ k, k < s.arg 4 ∧ ∃ j, j < s.cfgN ∧ ∃ x ∈ pkPoly s.params (s.pkOf k) j, s.params.q ≤ x

/-- The causes of `DecodeError` (R162). -/
def decodeCause (i : Instr) (s : State) : Prop :=
  match i with
  | .deser _ bits aux8 addr =>
    s.inLen.toNat < packedLen s.params bits.toNat ∨
      aux8 ≠ 0 ∧
        ∃ x ∈ deserialize s.params (Memory.readBytes s.bmem addr.toNat (packedLen s.params bits.toNat)) bits.toNat,
          s.params.q ≤ x
  | .dect _ _ addr =>
    s.inLen.toNat < szt s.params ∨ badTrit (Memory.readBytes s.bmem addr.toNat (szt s.params))
  | .decb _ _ _ => s.inLen.toNat < szb s.params
  | .ser ps bits _ => ∃ x ∈ s.coeffs ps, 2 ^ bits.toNat ≤ x
  | .recn _ _ pb _ _ => ∃ x ∈ s.coeffs pb, 1 < x
  | .encap => s.arg 3 < s.arg 4 * s.setting.pklen ∨ badKey s
  | .enc => s.arg 3 < s.arg 4 * s.setting.pklen ∨ s.arg 8 < s.arg 4 * szb s.params ∨ badKey s
  | .decap =>
    s.arg 1 < s.setting.sklen ∨ s.arg 3 < s.setting.sctlen ∨ s.arg 5 < szb s.params ∨
      s.cfgKind = 1 ∧ badTrit s.skBytes
  | .dec =>
    s.arg 1 < s.setting.sklen ∨ s.arg 3 < s.setting.sctlen ∨ s.arg 5 < s.setting.szv ∨
      s.cfgKind = 1 ∧ badTrit s.skBytes
  | .nop | .ldcfg | .clrerr | .ntt _ _ | .intt _ _ | .muln _ _ _ | .add _ _ _ _ _ | .sub _ _ _ _ _
  | .scale _ _ _ | .aclr | .macs _ _ | .ared _ _ _ | .snorm _ _ | .geta _ _ _ | .xinita _ _ _ | .xinits _ _ _
  | .smpu _ _ _ | .smpt _ _ | .smpb _ _ | .smpg _ _ _ | .comp _ _ _ _ _ | .dcmp _ _ _ _ _ | .rdbl _ _ _
  | .xrnd _ _ _ _ | .setup | .keygen => False

/-- A command finds nothing wrong: every check of its rule passes (R168). -/
def noCause (i : Instr) (s : State) : Prop :=
  i.wellFormed s.params = true ∧ ¬parameterCause i s ∧ ¬emptyCause i s ∧ ¬domainCause i s ∧ ¬addrCause i s ∧
    ¬decodeCause i s

/-! ### The protocol formulas, coefficient by coefficient -/

/-- A polynomial from its coefficients. -/
def polyOf (p : Params) (f : Nat → Nat) : List Nat := (List.range p.d).map f

/-- The numbers a polynomial's `D` places hold. -/
def at0 (f : List Nat) (t : Nat) : Nat := f.getD t 0

/-- The sum over `n` terms of `x i t * y i t`, plus `a t`, mod `Q`, for every place `t` (the inner products of
`44_protocol.md` R140, R142, R151 in the NTT domain). -/
def innerNtt (p : Params) (n : Nat) (a : Nat → Nat) (x y : Nat → List Nat) : List Nat :=
  polyOf p fun t => (a t + ∑ i ∈ Finset.range n, at0 (x i) t * at0 (y i) t) % p.q

/-- The public key of R140 for the secret and error bytes drawn. -/
def publicKeyOf (g : Setting) (matrix : Nat → Nat → List Nat) (sb eb : List (List Byte)) : List Byte :=
  let hat := fun (v : List (List Byte)) i => nttf g.p ((smallDecode g (v.getD i [])).map fun t => imod t g.p.q)
  (List.range g.n).flatMap fun j =>
    serialize g.p (ntti g.p (innerNtt g.p g.m (at0 (hat eb j)) (fun i => matrix i j) (hat sb))) (qbits g.p)

/-- The shared ciphertext of R142 for the Gaussian vectors `r` and `eu` drawn. -/
def sharedOf (g : Setting) (matrix : Nat → Nat → List Nat) (r eu : List (List Nat)) : List Byte :=
  (List.range g.m).flatMap fun i =>
    let a := ntti g.p (innerNtt g.p g.n (fun _ => 0) (matrix i) fun j => nttf g.p (r.getD j []))
    serialize g.p (polyOf g.p fun t => compress ((at0 a t + at0 (eu.getD i []) t) % g.p.q) g.du g.p.q) g.du

/-- The polynomial `c_k` of R151 for a recipient's public key bytes and the Gaussian polynomial `y` drawn. -/
def individualOf (g : Setting) (pk : List Byte) (r : List (List Nat)) (y : List Nat) : List Nat :=
  let a := ntti g.p (innerNtt g.p g.n (fun _ => 0) (fun j => nttf g.p (pkPoly g.p pk j)) fun j =>
    nttf g.p (r.getD j []))
  polyOf g.p fun t => (at0 a t + at0 y t) % g.p.q

/-- Coefficient `k` of the negacyclic product of `f` and `g` over the integers (`41_ringarith.md` R83). -/
def convolution (d : Nat) (f g : Nat → Int) (k : Nat) : Int :=
  ∑ i ∈ Finset.range d, if i ≤ k then f i * g (k - i) else -(f i * g (k + d - i))

/-- Coefficient `t` of `DecapW` (R145): the inner product of the compressed vector and the secret, mod `2^DU`. -/
def innerOf (g : Setting) (sk sct : List Byte) (t : Nat) : Nat :=
  imod
    (∑ i ∈ Finset.range g.m,
      convolution g.p.d (fun a => (at0 (deserialize g.p (sct.drop (i * g.szu)) g.du) a : Nat))
        (fun b => (smallDecode g ((sk.drop (i * g.szs)).take g.szs)).getD b 0) t)
    (2 ^ g.du)

/-! ### End to end (`44_protocol.md` R152) -/

/-- What the parties of R152 hold after `SETUP` and a `KEYGEN` for each recipient: the matrix, and the public and
the secret key of each. -/
structure Parties where
  matrix : Nat → Nat → List Nat
  pk : Nat → List Byte
  sk : Nat → List Byte

/-- `SETUP` from `seedA`, then `KEYGEN` for recipients `k < nr` from `keySeed k`. -/
def setupParties (g : Setting) (seedA : List Byte) (keySeed : Nat → List Byte) (nr : Nat) : Option Parties :=
  match matrixRows g seedA with
  | none => none
  | some rows =>
    let matrix := fun i j => (rows.getD i []).getD j []
    match allSome ((List.range nr).map fun k => keygen g matrix (keySeed k)) with
    | none => none
    | some keys => some { matrix, pk := fun k => (keys.getD k ([], [])).1, sk := fun k => (keys.getD k ([], [])).2 }

/-- The end-to-end KEM property of R152: `SETUP`, `KEYGEN` for each of `nr` recipients, `ENCAP` and `DECAP` all
end, and every recipient's `DECAP` gives the key that `ENCAP` gave for it. A property of a parameter set and its
seeds, not a consequence of the rules. -/
def kemRoundTrip (g : Setting) (seedA : List Byte) (keySeed : Nat → List Byte) (encSeed : List Byte) (nr : Nat) :
    Bool :=
  match setupParties g seedA keySeed nr with
  | none => false
  | some x =>
    match encap g x.matrix encSeed nr x.pk with
    | none => false
    | some (sct, hk) => hk.length == nr && hk.zipIdx.all fun y => decap g (x.sk y.2) sct y.1.1 == y.1.2

/-- The end-to-end PKE property of R152: the same with `ENC` and `DEC`, and every recipient's `DEC` gives the
message that `ENC` was given for it. -/
def pkeRoundTrip (g : Setting) (seedA : List Byte) (keySeed : Nat → List Byte) (encSeed : List Byte) (nr : Nat)
    (msg : Nat → List Byte) : Bool :=
  match setupParties g seedA keySeed nr with
  | none => false
  | some x =>
    match enc g x.matrix encSeed nr x.pk msg with
    | none => false
    | some (sct, cts) => cts.length == nr && cts.zipIdx.all fun y => dec g (x.sk y.2) sct y.1 == msg y.2

end Sys2Proof.Machine
end

