-- ==== Sys2Proof/Certificates/Slice0/Obligations.lean ====
section
/-! DEFINITION. The statements for the provers. Each docstring says which rules of spec/ it formalises. -/

open Sys2Proof Sys2Proof.Machine

/-! ### Command words (`30_encoding.md`) -/

/-- R61 to R66: the word of a well-formed command decodes to that command, for every instance and every
value of every field. -/
def Obligations.EncodeThenDecode : Prop :=
  ∀ (p : Params) (i : Instr), i.wellFormed p = true → decode p (encode i) = .ok i

/-- R61 to R67: a word that decodes is the word of the command it decodes to, which is well-formed: no bit of
a legal word is without meaning. -/
def Obligations.DecodeThenEncode : Prop :=
  ∀ (p : Params) (w : Cmd) (i : Instr), decode p w = .ok i → encode i = w ∧ i.wellFormed p = true

/-- R70: the worked encodings, both ways. -/
def Obligations.WorkedEncodings : Prop :=
  ∀ x ∈ ([(.nop, 0x0000000000000000), (.ntt 1 0, 0x0000000000000110), (.muln 2 0 1, 0x0000000001000212),
      (.add 2 0 1 2 11, 0x002C008001000213), (.scale 3 3 33550336, 0x01FFF00000030315),
      (.geta 5 2 3, 0x0000C8000000051A), (.xinits 1 8 0x100, 0x0000010008400021),
      (.ser 3 25 0x400, 0x0000040000190330), (.deser 0 5 1 0, 0x0000000001050031),
      (.comp 1 0 1 1 0, 0x0000004100000132), (.recn 4 2 3 2 11, 0x002C008003020436),
      (.encap, 0x0000000000000042)] : List (Instr × Cmd)),
    encode x.1 = x.2 ∧ decode Params.default x.2 = .ok x.1

/-- `60_exceptions.md` R163 and R67: presented in `IDLE`, the word of a well-formed command is run, every
other word raises `IllegalCommand`; every opcode outside R66 is of the second kind. -/
def Obligations.EveryWordIsLegalOrRaises : Prop :=
  ∀ (s : State) (w : Cmd), s.phase = .idle →
    (∀ i : Instr, i.wellFormed s.params = true → encode i = w → step (s.present w) = exec i s.accept) ∧
    ((∀ i : Instr, i.wellFormed s.params = true → encode i ≠ w) →
      step (s.present w) =
        .next { s with
          cmdCnt := s.cmdCnt + 1, errCode := 3, errInfo := w.setWidth 32, phase := .error, flight := none }) ∧
    ∀ op, op = (w.extractLsb' 0 8).toNat →
      (0x03 ≤ op ∧ op ≤ 0x0F ∨ 0x1B ≤ op ∧ op ≤ 0x1F ∨ 0x28 ≤ op ∧ op ≤ 0x2F ∨ 0x37 ≤ op ∧ op ≤ 0x3F ∨
        0x46 ≤ op) →
      ∀ i : Instr, encode i ≠ w

/-! ### The ports -/

/-- `30_encoding.md` R60: a word presented in `IDLE` that decodes to a command is accepted (`CMDCNT` goes up,
`STATE` is `BUSY`) and that command runs. `withFetchWord` presents a word so. -/
def Obligations.StepRunsDecodedCommand : Prop :=
  ∀ (s : State) (w : Cmd) (i : Instr), s.phase = .idle → decode s.params w = .ok i →
    step (s.present w) = exec i { s with cmdCnt := s.cmdCnt + 1, phase := .busy, flight := none } ∧
    step (s.withFetchWord 64 w.toNat) = exec i { s with cmdCnt := s.cmdCnt + 1, phase := .busy, flight := none }

/-- `60_exceptions.md` R171: a word is dropped in `BUSY`, and in `ERROR` unless it is the `CLRERR` word; in
`ERROR` the host reads and writes control registers and `BMEM`. -/
def Obligations.WordsDropped : Prop :=
  ∀ (s : State),
    (s.phase = .busy → ∀ w, step (s.present w) = .next s) ∧
    (s.phase = .error →
      (∀ w, w ≠ 0x0000000000000002 → step (s.present w) = .next s) ∧
      (∀ n v, step (s.offer (.csrWrite n v)) = .next (s.csrStore n v)) ∧
      (∀ n, step (s.offer (.csrRead n)) = .next { s with csrData := s.csrValue n }) ∧
      ∀ a : BitVec 32, a.toNat < s.params.bmemBytes →
        (∀ b, step (s.offer (.bmemWrite a b)) = .next { s with bmem := Memory.write s.bmem a.toNat b }) ∧
        step (s.offer (.bmemRead a)) = .next { s with bmemData := Memory.read s.bmem a.toNat })

/-- `40_system.md` R75 and R77: the `NOP` and the `CLRERR` word on the command port, and every other word with
one of these opcodes. -/
def Obligations.NopAndClrerrWords : Prop :=
  ∀ (s : State),
    (s.phase = .idle →
      step (s.present 0x0000000000000000) = .next { s with cmdCnt := s.cmdCnt + 1, flight := none } ∧
      (s.ErrorOk → step (s.present 0x0000000000000002) = .next { s with cmdCnt := s.cmdCnt + 1 }) ∧
      ∀ w : Cmd, (w.extractLsb' 0 8 = 0 ∧ w ≠ 0 ∨ w.extractLsb' 0 8 = 2 ∧ w ≠ 2) →
        step (s.present w) =
          .next { s with
            cmdCnt := s.cmdCnt + 1, errCode := 3, errInfo := w.setWidth 32, phase := .error, flight := none }) ∧
    (s.phase = .error →
      step (s.present 0x0000000000000002) =
        .next { s with cmdCnt := s.cmdCnt + 1, errCode := 0, errInfo := 0, phase := .idle, flight := none } ∧
      ∀ w : Cmd, w.extractLsb' 0 8 = 2 → w ≠ 2 → step (s.present w) = .next s)

/-- `10_state.md` R37: `CMDCNT` counts, modulo `2^32`, the commands accepted in `IDLE` and the `CLRERR`
accepted in `ERROR`, whatever becomes of them, and nothing else; reset clears it. -/
def Obligations.AcceptedCommandsAreCounted : Prop :=
  ∀ (s t : State), step s = .next t →
    t.cmdCnt =
      match s.port with
      | .command w :: _ =>
        if s.phase = .idle ∨ s.phase = .error ∧ w = 0x0000000000000002 then s.cmdCnt + 1 else s.cmdCnt
      | .reset _ :: _ => 0
      | .csrWrite _ _ :: _ | .csrRead _ :: _ | .bmemWrite _ _ :: _ | .bmemRead _ :: _ | .wait :: _ | [] => s.cmdCnt

/-- `10_state.md` R36 and `20_memory.md` R53: a write to `CFG0`, `SIGMA0` or `SIGMA1` clears `CFG_VALID` and
`A_VALID`, a write to `INLEN` or an `ARG` register has no side effect; writes are dropped while `BUSY`;
reads are possible at any time. -/
def Obligations.HostWritesControlRegisters : Prop :=
  ∀ (s : State) (n : BitVec 6) (v : Word),
    step (s.offer (.csrRead n)) = .next { s with csrData := s.csrValue n } ∧
    (s.phase = .busy → step (s.offer (.csrWrite n v)) = .next s) ∧
    (s.phase ≠ .busy →
      (n = 0x08 → step (s.offer (.csrWrite n v)) = .next { s with cfg0 := v, cfgValid := false, aValid := false }) ∧
      (n = 0x09 → step (s.offer (.csrWrite n v)) = .next { s with sigma0 := v, cfgValid := false, aValid := false }) ∧
      (n = 0x0A → step (s.offer (.csrWrite n v)) = .next { s with sigma1 := v, cfgValid := false, aValid := false }) ∧
      (n = 0x0B → step (s.offer (.csrWrite n v)) = .next { s with inLen := v }) ∧
      ∀ k : Fin 12, n.toNat = 0x10 + k.val →
        step (s.offer (.csrWrite n v)) = .next { s with args := s.args.set k v })

/-- `10_state.md` R29, R38 (the fields) and R40: what a read of each control register returns, that a write to
a read-only or unmapped number is ignored, and the values after reset. -/
def Obligations.ControlRegisterMap : Prop :=
  (∀ (s : State) (n : BitVec 6), ∃ v : Word,
    step (s.offer (.csrRead n)) = .next { s with csrData := v } ∧
    (n = 0x00 → v = 0x4D4D4B31) ∧
    (n = 0x01 →
      v.toNat = (match s.phase with | .idle => 0 | .busy => 1 | .error => 2) + 2 ^ 4 * s.cfgValid.toNat +
        2 ^ 5 * s.aValid.toNat + 2 ^ 6 * s.accValid.toNat) ∧
    (n = 0x02 → v = s.errCode) ∧ (n = 0x03 → v = s.errInfo) ∧ (n = 0x04 → v = s.cmdCnt) ∧
    (n = 0x06 → v.toNat = s.params.bmemBytes % 2 ^ 32) ∧
    (n = 0x07 → v.toNat = (s.params.npoly + 256 * s.params.maxdim + 65536 * 4) % 2 ^ 32) ∧
    (n = 0x08 → v = s.cfg0) ∧ (n = 0x09 → v = s.sigma0) ∧ (n = 0x0A → v = s.sigma1) ∧ (n = 0x0B → v = s.inLen) ∧
    (n = 0x0C → v.toNat = s.params.d % 2 ^ 32) ∧ (n = 0x0D → v.toNat = s.params.q % 2 ^ 32) ∧
    (n = 0x0E → v.toNat = s.params.psi % 2 ^ 32) ∧
    (∀ k : Fin 12, n.toNat = 0x10 + k.val → v = s.args[k]) ∧
    (n = 0x05 ∨ n = 0x0F ∨ 0x1C ≤ n.toNat → v = 0) ∧
    (s.phase ≠ .busy → (n.toNat ≤ 0x07 ∨ 0x0C ≤ n.toNat ∧ n.toNat ≤ 0x0F ∨ 0x1C ≤ n.toNat) →
      ∀ x, step (s.offer (.csrWrite n x)) = .next s)) ∧
  ∀ n : BitVec 6, n ≠ 0x00 → n ≠ 0x06 → n ≠ 0x07 → n ≠ 0x0C → n ≠ 0x0D → n ≠ 0x0E → State.reset.csrValue n = 0

/-- `20_memory.md` R52: the host reads and writes `BMEM` in `IDLE` and `ERROR`; while `BUSY` a write is dropped
and a read returns some byte. That such a read moves the counter of free values on by 1, and changes nothing
else, is the model's choice: log 9. -/
def Obligations.HostMemoryPort : Prop :=
  ∀ (s : State) (a : BitVec 32),
    (s.phase = .busy →
      (∀ b, step (s.offer (.bmemWrite a b)) = .next s) ∧
      ∃ b, step (s.offer (.bmemRead a)) = .next { s with bmemData := b, freeCtr := s.freeCtr + 1 }) ∧
    (s.phase ≠ .busy → s.MemoryOk → a.toNat < s.params.bmemBytes →
      step (s.offer (.bmemRead a)) = .next { s with bmemData := Memory.read s.bmem a.toNat } ∧
      ∀ b, ∃ t, step (s.offer (.bmemWrite a b)) = .next t ∧ t = { s with bmem := t.bmem } ∧
        Memory.read t.bmem a.toNat = b ∧ Memory.SameOutside s.bmem t.bmem [(a.toNat, 1)])

/-- `70_reset_and_hazards.md` R180: reset, whatever the engine was doing. -/
def Obligations.ResetAction : Prop :=
  ∀ (s : State) (bytes : List Host.Cell), ∃ t, step (s.offer (.reset bytes)) = .next t ∧
    t.phase = .idle ∧ t.flight = none ∧ t.cfgValid = false ∧ t.aValid = false ∧ t.accValid = false ∧
    t.errCode = 0 ∧ t.errInfo = 0 ∧ t.cmdCnt = 0 ∧ t.cfg0 = 0 ∧ t.sigma0 = 0 ∧ t.sigma1 = 0 ∧ t.inLen = 0 ∧
    (∀ k : Fin 12, t.args[k] = 0) ∧ t.slots.length = s.params.npoly ∧ (∀ x ∈ t.slots, x.tag = .empty) ∧
    (∀ k, (t.stream k).valid = false) ∧ t.params = s.params ∧ t.status = 0 ∧ t.MemoryOk

/-- `10_state.md` R43: the state right after reset, but for the values the rule leaves unspecified; the
constants are those of the default instance. -/
def Obligations.ResetState : Prop :=
  (∀ n : BitVec 8, (State.reset.slot n).tag = .empty) ∧ State.reset.slots.length = 32 ∧
    State.reset.accValid = false ∧ State.reset.aValid = false ∧ (∀ k, (State.reset.stream k).valid = false) ∧
    State.reset.status = 0 ∧ State.reset.phase = .idle ∧ State.reset.cfgValid = false ∧
    State.reset.errCode = 0 ∧ State.reset.errInfo = 0 ∧ State.reset.cmdCnt = 0 ∧ State.reset.cfg0 = 0 ∧
    State.reset.sigma0 = 0 ∧ State.reset.sigma1 = 0 ∧ State.reset.inLen = 0 ∧ (∀ k : Fin 12, State.reset.args[k] = 0) ∧
    State.reset.csrValue 0x00 = 0x4D4D4B31 ∧ State.reset.csrValue 0x01 = 0 ∧ State.reset.csrValue 0x06 = 0x00100000 ∧
    State.reset.csrValue 0x07 = 32 + 256 * 9 + 65536 * 4 ∧ State.reset.csrValue 0x0C = 256 ∧
    State.reset.csrValue 0x0D = 33550337 ∧ State.reset.csrValue 0x0E = 158302 ∧
    [0, 1, 2, 3, 4, 255].map (zeta State.reset.params) = [1, 20791006, 6356706, 19867748, 11836922, 19329455]

/-- Log 10 (the model's choice): no command stops the machine, a step stops only where the host, outside
`BUSY`, addresses a byte of `BMEM` that does not exist, and every such access ends in that fault. -/
def Obligations.StopsOnlyAtTheMemoryPort : Prop :=
  (∀ (i : Instr) (s : State), ∃ t, exec i s = .next t) ∧
  (∀ s : State, (∃ t, step s = .next t) ∨
    step s = .fault .hostAddressOutsideBmem ∧ s.phase ≠ .busy ∧
      ∃ a rest, (s.port = .bmemRead a :: rest ∨ ∃ b, s.port = .bmemWrite a b :: rest) ∧
        s.params.bmemBytes ≤ a.toNat) ∧
  ∀ (s : State) (a : BitVec 32), s.phase ≠ .busy → s.params.bmemBytes ≤ a.toNat →
    step (s.offer (.bmemRead a)) = .fault .hostAddressOutsideBmem ∧
    ∀ b, step (s.offer (.bmemWrite a b)) = .fault .hostAddressOutsideBmem

/-! ### System commands (`40_system.md`) -/

/-- R75 to R77 with `10_state.md` R30 to R33: `NOP` and `CLRERR` end in `IDLE`; `LDCFG` sets `CFG_VALID` exactly
when the fields of `CFG0` and the two Gaussian registers are legal, else clears it and raises `ParameterError`. -/
def Obligations.SystemCommands : Prop :=
  ∀ s : State,
    exec .nop s = .next { s with phase := .idle, flight := none } ∧
    exec .clrerr s = .next { s with errCode := 0, errInfo := 0, phase := .idle, flight := none } ∧
    let c := s.cfg0.toNat
    let legal :=
      (1 ≤ c % 16 ∧ c % 16 ≤ s.params.maxdim) ∧ (1 ≤ c / 2 ^ 4 % 16 ∧ c / 2 ^ 4 % 16 ≤ s.params.maxdim) ∧
      c / 2 ^ 8 % 4 ≤ 1 ∧ (1 ≤ c / 2 ^ 10 % 64 ∧ c / 2 ^ 10 % 64 ≤ 32) ∧
      (1 ≤ c / 2 ^ 16 % 64 ∧ c / 2 ^ 16 % 64 ≤ 32) ∧ c / 2 ^ 22 = 0 ∧
      12 * s.sigma0.toNat ^ 2 > 2 ^ 32 ∧ 12 * s.sigma1.toNat ^ 2 > 2 ^ 32
    (legal → exec .ldcfg s = .next { s with cfgValid := true, phase := .idle, flight := none }) ∧
    (¬legal → exec .ldcfg s =
      .next { s with cfgValid := false, errCode := 2, errInfo := 1, phase := .error, flight := none })

/-! ### RingArith (`41_ringarith.md`) -/

/-- R84, R85: `NTT` and `INTT` end with the transform of the source in the destination slot; nothing else
changes. -/
def Obligations.TransformCommands : Prop :=
  ∀ (s : State) (pd pa : BitVec 8), s.Sound →
    (noCause (.ntt pd pa) s → ∃ t, exec (.ntt pd pa) s = .next t ∧
      t.Holds pd .ntt (at0 (nttf s.params (s.coeffs pa))) ∧ SlotFrame s t pd) ∧
    (noCause (.intt pd pa) s → ∃ t, exec (.intt pd pa) s = .next t ∧
      t.Holds pd .coef (at0 (ntti s.params (s.coeffs pa))) ∧ SlotFrame s t pd)

/-- R86 to R88: `MULN`, `ADD`, `SUB` coefficient by coefficient, with the destination's tag; nothing else
changes. -/
def Obligations.PointwiseCommands : Prop :=
  ∀ (s : State) (pd pa pb : BitVec 8) (msel : BitVec 2) (mbits : BitVec 6), s.Sound →
    (noCause (.muln pd pa pb) s → ∃ t, exec (.muln pd pa pb) s = .next t ∧
      t.Holds pd .ntt (fun j => s.coeff pa j * s.coeff pb j % s.params.q) ∧ SlotFrame s t pd) ∧
    (noCause (.add pd pa pb msel mbits) s → ∃ t, exec (.add pd pa pb msel mbits) s = .next t ∧
      t.Holds pd (s.slot pa).tag (fun j => (s.coeff pa j + s.coeff pb j) % modulus s.params msel mbits) ∧
      SlotFrame s t pd) ∧
    (noCause (.sub pd pa pb msel mbits) s → ∃ t, exec (.sub pd pa pb msel mbits) s = .next t ∧
      t.Holds pd (s.slot pa).tag
        (fun j => (((s.coeff pa j : Int) - s.coeff pb j) % (modulus s.params msel mbits : Int)).toNat) ∧
      SlotFrame s t pd)

/-- R89, R93: `SCALE` multiplies by the immediate mod `Q` and keeps the tag; `SNORM` gives the 32-bit two's
complement pattern of the representative in `(-Q/2, Q/2]`; nothing else changes. -/
def Obligations.ScaleAndSignedNormalize : Prop :=
  ∀ (s : State) (pd pa : BitVec 8) (imm32 : BitVec 32), s.Sound →
    (noCause (.scale pd pa imm32) s → ∃ t, exec (.scale pd pa imm32) s = .next t ∧
      t.Holds pd (s.slot pa).tag (fun j => s.coeff pa j * imm32.toNat % s.params.q) ∧ SlotFrame s t pd) ∧
    (noCause (.snorm pd pa) s → ∃ t, exec (.snorm pd pa) s = .next t ∧
      t.Holds pd .raw
        (fun j => if 2 * s.coeff pa j ≤ s.params.q then s.coeff pa j else 2 ^ 32 + s.coeff pa j - s.params.q) ∧
      SlotFrame s t pd)

/-- R90, R92: `ACLR` makes the accumulator all zero and valid; `ARED` puts each cell, read as a signed integer,
mod `m` into the destination slot; nothing else changes. -/
def Obligations.AccumulatorClearAndReduce : Prop :=
  ∀ (s : State) (pd : BitVec 8) (msel : BitVec 2) (mbits : BitVec 6), s.Sound →
    (∃ t, exec .aclr s = .next t ∧ t = { s with acc := t.acc, accValid := true, phase := .idle, flight := none } ∧
      t.acc.length = s.params.d ∧ ∀ a ∈ t.acc, a = 0) ∧
    (noCause (.ared pd msel mbits) s → ∃ t, exec (.ared pd msel mbits) s = .next t ∧
      t.Holds pd (if msel = 0 then .coef else .raw)
        (fun j => ((s.acc.getD j 0).toInt % (modulus s.params msel mbits : Int)).toNat) ∧ SlotFrame s t pd)

/-- R91: `MACS` adds the negacyclic product of the two slots, read as unsigned integers, to the accumulator,
each cell wrapped to 64-bit two's complement; nothing else changes. -/
def Obligations.MultiplyAccumulate : Prop :=
  ∀ (s : State) (pa pb : BitVec 8), s.Sound → noCause (.macs pa pb) s → ∃ t, exec (.macs pa pb) s = .next t ∧
    t = { s with acc := t.acc, phase := .idle, flight := none } ∧ t.acc.length = s.params.d ∧
    ∀ k, k < s.params.d →
      t.acc.getD k 0 =
        BitVec.ofInt 64 ((s.acc.getD k 0).toInt +
          convolution s.params.d (fun i => (s.coeff pa i : Int)) (fun j => (s.coeff pb j : Int)) k)

/-- R94: `GETA` copies the matrix entry of row `sub` and column `sub2`; nothing else changes. -/
def Obligations.CopyMatrixEntry : Prop :=
  ∀ (s : State) (pd : BitVec 8) (sub sub2 : BitVec 4), s.Sound → noCause (.geta pd sub sub2) s →
    ∃ t, exec (.geta pd sub sub2) s = .next t ∧
      t.Holds pd .ntt
        (fun j => ((s.amat.getD (sub.toNat * s.params.maxdim + sub2.toNat) []).getD j 0).toNat) ∧
      SlotFrame s t pd

/-! ### Sampler (`42_sampler.md`) -/

/-- R98, R99: `XINITA` and `XINITS` open the context on the seed bytes of `BMEM`, at position 0; nothing else
changes. -/
def Obligations.OpenStreams : Prop :=
  ∀ (s : State) (k : BitVec 2) (len : BitVec 8) (addr : BitVec 32),
    (noCause (.xinita k len addr) s → ∃ t, exec (.xinita k len addr) s = .next t ∧
      t = { s with xs := t.xs, phase := .idle, flight := none } ∧
      t.stream k =
        { valid := true, kind := .a,
          seed := (List.range len.toNat).map fun j => Memory.read s.bmem (addr.toNat + j), pos := 0 } ∧
      ∀ k', k' ≠ k → t.stream k' = s.stream k') ∧
    (noCause (.xinits k len addr) s → ∃ t, exec (.xinits k len addr) s = .next t ∧
      t = { s with xs := t.xs, phase := .idle, flight := none } ∧
      t.stream k =
        { valid := true, kind := .s,
          seed := (List.range len.toNat).map fun j => Memory.read s.bmem (addr.toNat + j), pos := 0 } ∧
      ∀ k', k' ≠ k → t.stream k' = s.stream k')

/-- R100, R105: where the rejection loop ends within the draws of the attempt, `SMPU` and `SMPG` put the sample
into the destination slot and move the context on; nothing else changes. -/
def Obligations.SampleIntoSlot : Prop :=
  ∀ (s : State) (pd : BitVec 8) (k : BitVec 2) (sub : BitVec 4) (v : List Nat) (pos : Nat), s.Sound →
    (noCause (.smpu pd k sub) s →
      sampleUniform s.params (xofStream s.params (s.stream k).kind (s.stream k).seed) s.budget (s.stream k).pos =
        some (v, pos) →
      ∃ t, exec (.smpu pd k sub) s = .next t ∧ t.Holds pd (if sub = 0 then .coef else .ntt) (at0 v) ∧
        SampleFrame s t pd k pos) ∧
    (noCause (.smpg pd k sub) s →
      sampleGaussian s.params (if sub = 0 then s.sigma0 else s.sigma1)
        (xofStream s.params (s.stream k).kind (s.stream k).seed) s.budget (s.stream k).pos = some (v, pos) →
      ∃ t, exec (.smpg pd k sub) s = .next t ∧ t.Holds pd .coef (at0 v) ∧ SampleFrame s t pd k pos)

/-- R101, R102: `SMPT` (where its rejection loop ends within the draws of the attempt) and `SMPB` write the
compact bytes to `BMEM` and move the context on; nothing else changes. -/
def Obligations.SampleIntoMemory : Prop :=
  ∀ (s : State) (k : BitVec 2) (addr : BitVec 32), s.Sound →
    (∀ (v : List Byte) (pos : Nat), noCause (.smpt k addr) s →
      sampleTernary s.params (xofStream s.params (s.stream k).kind (s.stream k).seed) s.budget (s.stream k).pos =
        some (v, pos) →
      ∃ t, exec (.smpt k addr) s = .next t ∧ v.length = ceilDiv s.params.d 5 ∧
        Memory.Holds t.bmem addr.toNat v [] ∧
        SampleStoreFrame s t [(addr.toNat, ceilDiv s.params.d 5)] k pos) ∧
    (noCause (.smpb k addr) s → ∃ t, exec (.smpb k addr) s = .next t ∧
      (∀ j, j < ceilDiv s.params.d 8 →
        Memory.read t.bmem (addr.toNat + j) =
          xofStream s.params (s.stream k).kind (s.stream k).seed ((s.stream k).pos + j)) ∧
      SampleStoreFrame s t [(addr.toNat, ceilDiv s.params.d 8)] k ((s.stream k).pos + ceilDiv s.params.d 8))

/-- R103, R104 with R108, R109: `DECT` decodes five base-3 digits a byte, least significant first, each digit
less 1 and mod `m`; `DECB` decodes bits, least significant first; nothing else changes. -/
def Obligations.DecodeSmallSecrets : Prop :=
  ∀ (s : State) (ps aux8 : BitVec 8) (addr : BitVec 32), s.Sound →
    (noCause (.dect ps aux8 addr) s → ∃ t, exec (.dect ps aux8 addr) s = .next t ∧
      t.Holds ps (if aux8 = 0 then .coef else .raw)
        (fun j =>
          ((((Memory.read s.bmem (addr.toNat + j / 5)).toNat / 3 ^ (j % 5) % 3 : Nat) - 1 : Int) %
            ((if aux8 = 0 then s.params.q else 2 ^ aux8.toNat : Nat) : Int)).toNat) ∧
      SlotFrame s t ps) ∧
    (noCause (.decb ps aux8 addr) s → ∃ t, exec (.decb ps aux8 addr) s = .next t ∧
      t.Holds ps (if aux8 = 0 then .coef else .raw)
        (fun j => (Memory.read s.bmem (addr.toNat + j / 8)).toNat / 2 ^ (j % 8) % 2) ∧
      SlotFrame s t ps)

/-! ### Codec (`43_codec.md`) -/

/-- R114 with R121: `SER` writes the little-endian bytes of the sum of `c[i] * 2^(i*bits)`; nothing else
changes. -/
def Obligations.SerializeCommand : Prop :=
  ∀ (s : State) (ps : BitVec 8) (bits : BitVec 6) (addr : BitVec 32), s.Sound → noCause (.ser ps bits addr) s →
    ∃ t, exec (.ser ps bits addr) s = .next t ∧
      (∀ k, k < ceilDiv (s.params.d * bits.toNat) 8 →
        (Memory.read t.bmem (addr.toNat + k)).toNat =
          (∑ i ∈ Finset.range s.params.d, s.coeff ps i * 2 ^ (i * bits.toNat)) / 256 ^ k % 256) ∧
      StoreFrame s t [(addr.toNat, ceilDiv (s.params.d * bits.toNat) 8)]

/-- R115 with R122: `DESER` unpacks the little-endian integer of the bytes into `D` values of `bits` bits and
tags them as `aux8` says; nothing else changes. -/
def Obligations.DeserializeCommand : Prop :=
  ∀ (s : State) (ps : BitVec 8) (bits : BitVec 6) (aux8 : BitVec 8) (addr : BitVec 32), s.Sound →
    noCause (.deser ps bits aux8 addr) s →
    ∃ t, exec (.deser ps bits aux8 addr) s = .next t ∧
      t.Holds ps (if aux8 = 0 then .raw else if aux8 = 1 then .coef else .ntt)
        (fun i =>
          (∑ k ∈ Finset.range (ceilDiv (s.params.d * bits.toNat) 8),
            (Memory.read s.bmem (addr.toNat + k)).toNat * 256 ^ k) / 2 ^ (i * bits.toNat) % 2 ^ bits.toNat) ∧
      SlotFrame s t ps

/-- R116, R117, R119 with R123, R124, R126: `COMP`, `DCMP` and `XRND` coefficient by coefficient, the source
not reduced first; nothing else changes. -/
def Obligations.RoundingCommands : Prop :=
  ∀ (s : State) (pd pa : BitVec 8) (bits : BitVec 6) (msel : BitVec 2) (mbits : BitVec 6) (m : Nat), s.Sound →
    m = modulus s.params msel mbits →
    (noCause (.comp pd pa bits msel mbits) s → ∃ t, exec (.comp pd pa bits msel mbits) s = .next t ∧
      t.Holds pd .raw (fun j => (2 ^ bits.toNat * s.coeff pa j + m / 2) / m % 2 ^ bits.toNat) ∧
      SlotFrame s t pd) ∧
    (noCause (.dcmp pd pa bits msel mbits) s → ∃ t, exec (.dcmp pd pa bits msel mbits) s = .next t ∧
      t.Holds pd (if msel = 0 then .coef else .raw)
        (fun j => (m * s.coeff pa j + 2 ^ (bits.toNat - 1)) / 2 ^ bits.toNat % m) ∧
      SlotFrame s t pd) ∧
    (noCause (.xrnd pd pa msel mbits) s → ∃ t, exec (.xrnd pd pa msel mbits) s = .next t ∧
      t.Holds pd .raw (fun j => 4 * s.coeff pa j / m % 2) ∧ SlotFrame s t pd)

/-- R118 with R125: `RDBL` doubles each coefficient and adds `b0 - b1` from its bit pair of the 64-bit word of
its group of 32, mod `2Q`; the context moves on by 8 bytes a group; nothing else changes. -/
def Obligations.RandomizedDoubling : Prop :=
  ∀ (s : State) (pd pa : BitVec 8) (k : BitVec 2), s.Sound → noCause (.rdbl pd pa k) s →
    ∃ t, exec (.rdbl pd pa k) s = .next t ∧
      t.Holds pd .raw
        (fun j =>
          let r := ∑ b ∈ Finset.range 8,
            (xofStream s.params (s.stream k).kind (s.stream k).seed ((s.stream k).pos + 8 * (j / 32) + b)).toNat * 256 ^ b
          ((2 * (s.coeff pa j : Int) + (r / 2 ^ (2 * (j % 32)) % 2 : Nat) - (r / 2 ^ (2 * (j % 32) + 1) % 2 : Nat)) %
            (2 * (s.params.q : Int))).toNat) ∧
      SampleFrame s t pd k ((s.stream k).pos + 8 * ceilDiv s.params.d 32)

/-- R120 with R127: `RECN` gives 1 where `w` lies in the interval of the hint (lower end included, upper end
excluded), which does not wrap around, else 0; nothing else changes. -/
def Obligations.ReconcileCommand : Prop :=
  ∀ (s : State) (pd pa pb : BitVec 8) (msel : BitVec 2) (mbits : BitVec 6) (m : Nat), s.Sound →
    m = modulus s.params msel mbits → noCause (.recn pd pa pb msel mbits) s →
    ∃ t, exec (.recn pd pa pb msel mbits) s = .next t ∧
      t.Holds pd .raw
        (fun j =>
          if s.coeff pb j = 0 then
            if ((m + 3) / 4 : Nat) + (m / 8 : Nat) ≤ s.coeff pa j + 1 ∧ s.coeff pa j + (m / 8 : Nat) + 1 < m then 1 else 0
          else
            if m / 8 ≤ s.coeff pa j + 1 ∧ s.coeff pa j + m / 4 + m / 8 + 1 < m then 1 else 0) ∧
      SlotFrame s t pd

/-! ### Protocol (`44_protocol.md`) -/

/-- R139 with R148: where every rejection loop ends within the draws of the attempt, `SETUP` leaves in each
entry `i < M`, `j < N` the uniform sample of its own stream, makes the matrix valid and clears the scratch; it
writes no byte. The other entries and the counter of free values are the model's (log 8). -/
def Obligations.SetupCommand : Prop :=
  ∀ (s : State) (a : Nat → Nat → List Nat), s.Sound → noCause .setup s →
    (∀ i j, i < s.cfgM → j < s.cfgN → ∃ pos,
      sampleUniform s.params
        (xofStream s.params .a
          (Memory.readBytes s.bmem (s.arg 0) (s.arg 1) ++ [BitVec.ofNat 8 i, BitVec.ofNat 8 j, 0x41])) s.budget 0 =
        some (a i j, pos)) →
    ∃ t, exec .setup s = .next t ∧
      t = { s with
        slots := t.slots, accValid := t.accValid, xs := t.xs, amat := t.amat, aValid := true,
        freeCtr := t.freeCtr, phase := .idle, flight := none } ∧
      t.ScratchCleared ∧ ∀ i j, i < s.cfgM → j < s.cfgN → t.matrix i j = a i j

/-- R140: where the sampling of `s` and `e` ends within the draws of the attempt, `KEYGEN` writes the public key
`NTTI(ehat[j] + sum over i of AMAT[i][j] * shat[i])`, then the secret key, and clears the scratch; nothing else
changes. -/
def Obligations.KeygenCommand : Prop :=
  ∀ (s : State) (g : Setting) (sb eb : List (List Byte)) (p1 p2 : Nat), s.Sound → noCause .keygen s →
    g = s.setting →
    sampleVec (smallSample g (xofStream s.params .s (s.seed ++ [0x53]))) s.cfgM 0 = some (sb, p1) →
    sampleVec (smallSample g (xofStream s.params .s (s.seed ++ [0x45]))) s.cfgN 0 = some (eb, p2) →
    ∃ t, exec .keygen s = .next t ∧
      Memory.Holds t.bmem (s.arg 2) (publicKeyOf g s.matrix sb eb) [(s.arg 3, s.cfgM * g.szs)] ∧
      Memory.Holds t.bmem (s.arg 3) sb.flatten [] ∧
      ProtocolFrame s t [(s.arg 2, s.cfgN * pkpoly s.params), (s.arg 3, s.cfgM * g.szs)]

/-- R143 with R142, R148, R151: where every Gaussian sampling ends within the draws of the attempt, `ENCAP`
writes the shared ciphertext, then every recipient's hint, then every recipient's key, and clears the scratch;
nothing else changes. -/
def Obligations.EncapCommand : Prop :=
  ∀ (s : State) (g : Setting) (r eu : List (List Nat)) (p1 p2 : Nat) (y : Nat → List Nat) (pos : Nat → Nat),
    s.Sound → noCause .encap s → g = s.setting →
    sampleVec (sampleGaussian s.params s.sigma0 (xofStream s.params .s (s.seed ++ [0x52])) s.budget) s.cfgN 0 =
      some (r, p1) →
    sampleVec (sampleGaussian s.params s.sigma0 (xofStream s.params .s (s.seed ++ [0x65])) s.budget) s.cfgM 0 =
      some (eu, p2) →
    (∀ k, k < s.arg 4 →
      sampleGaussian s.params s.sigma1 (xofStream s.params .s (s.seed ++ le32 k ++ [0x72])) s.budget 0 =
        some (y k, pos k)) →
    let hints := (s.arg 6, s.arg 4 * szb s.params)
    let keys := (s.arg 7, s.arg 4 * szb s.params)
    ∃ t, exec .encap s = .next t ∧
      Memory.Holds t.bmem (s.arg 5) (sharedOf g s.matrix r eu) [hints, keys] ∧
      (∀ k, k < s.arg 4 →
        let c := individualOf g (s.pkOf k) r (y k)
        let d := randomizeDouble s.params.q
          (doubleWord (xofStream s.params .s (s.seed ++ le32 k ++ [0x72])) (pos k)) c
        Memory.Holds t.bmem (s.arg 6 + k * szb s.params)
          (serialize s.params (polyOf s.params fun j => crossRound (at0 d j) (2 * s.params.q)) 1) [keys] ∧
        Memory.Holds t.bmem (s.arg 7 + k * szb s.params)
          (serialize s.params (polyOf s.params fun j => compress (at0 d j) 1 (2 * s.params.q)) 1) []) ∧
      ProtocolFrame s t [(s.arg 5, s.cfgM * g.szu), hints, keys]

/-- R144 with R142, R148, R151: where every Gaussian sampling ends within the draws of the attempt, `ENC`
writes the shared ciphertext, then every recipient's individual ciphertext, and clears the scratch; nothing
else changes. -/
def Obligations.EncCommand : Prop :=
  ∀ (s : State) (g : Setting) (r eu : List (List Nat)) (p1 p2 : Nat) (y : Nat → List Nat) (pos : Nat → Nat),
    s.Sound → noCause .enc s → g = s.setting →
    sampleVec (sampleGaussian s.params s.sigma0 (xofStream s.params .s (s.seed ++ [0x52])) s.budget) s.cfgN 0 =
      some (r, p1) →
    sampleVec (sampleGaussian s.params s.sigma0 (xofStream s.params .s (s.seed ++ [0x65])) s.budget) s.cfgM 0 =
      some (eu, p2) →
    (∀ k, k < s.arg 4 →
      sampleGaussian s.params s.sigma1 (xofStream s.params .s (s.seed ++ le32 k ++ [0x72])) s.budget 0 =
        some (y k, pos k)) →
    ∃ t, exec .enc s = .next t ∧
      Memory.Holds t.bmem (s.arg 5) (sharedOf g s.matrix r eu) [(s.arg 6, s.arg 4 * g.szv)] ∧
      (∀ k, k < s.arg 4 →
        let c := individualOf g (s.pkOf k) r (y k)
        let m := deserialize s.params (Memory.readBytes s.bmem (s.arg 7 + k * szb s.params) (szb s.params)) 1
        Memory.Holds t.bmem (s.arg 6 + k * g.szv)
          (serialize s.params
            (polyOf s.params fun j =>
              compress ((at0 c j + decompress (at0 m j) 1 s.params.q) % s.params.q) g.dv s.params.q) g.dv) []) ∧
      ProtocolFrame s t [(s.arg 5, s.cfgM * g.szu), (s.arg 6, s.arg 4 * g.szv)]

/-- R146 with R145: `DECAP` writes the bits that reconciliation gives for the inner product mod `2^DU` and the
hint, and clears the scratch; it always ends and nothing else changes. -/
def Obligations.DecapCommand : Prop :=
  ∀ (s : State) (g : Setting), s.Sound → noCause .decap s → g = s.setting →
    let h := deserialize s.params (Memory.readBytes s.bmem (s.arg 4) (szb s.params)) 1
    ∃ t, exec .decap s = .next t ∧
      Memory.Holds t.bmem (s.arg 6)
        (serialize s.params
          (polyOf s.params fun j => reconcile (innerOf g s.skBytes s.sctBytes j) (at0 h j) (2 ^ s.cfgDU)) 1) [] ∧
      ProtocolFrame s t [(s.arg 6, szb s.params)]

/-- R147 with R145: `DEC` writes the bits that compression gives for the decompressed individual ciphertext
less the inner product, mod `2^DU`, and clears the scratch; it always ends and nothing else changes. -/
def Obligations.DecCommand : Prop :=
  ∀ (s : State) (g : Setting), s.Sound → noCause .dec s → g = s.setting →
    let v := deserialize s.params (Memory.readBytes s.bmem (s.arg 4) g.szv) s.cfgDV
    ∃ t, exec .dec s = .next t ∧
      Memory.Holds t.bmem (s.arg 6)
        (serialize s.params
          (polyOf s.params fun j =>
            compress
              (imod ((decompress (at0 v j) s.cfgDV (2 ^ s.cfgDU) : Int) - innerOf g s.skBytes s.sctBytes j)
                (2 ^ s.cfgDU)) 1 (2 ^ s.cfgDU)) 1) [] ∧
      ProtocolFrame s t [(s.arg 6, szb s.params)]

/-! ### The functions behind the commands -/

/-- `41_ringarith.md` R83 (a): `NTTF(f)[i]` is the value of the polynomial `f` at `PSI^(2*brv_L(i)+1)`. -/
def Obligations.TransformClosedForm : Prop :=
  ∀ (p : Params) (f : List Nat), p.Legal → f.length = p.d → (∀ x ∈ f, x < p.q) → ∀ i, i < p.d →
    at0 (nttf p f) i = (∑ j ∈ Finset.range p.d, at0 f j * p.psi ^ ((2 * brv (Nat.log2 p.d) i + 1) * j)) % p.q

/-- R83 (b): the inverse transform of the forward transform of `f` is `f`. -/
def Obligations.TransformRoundTrip : Prop :=
  ∀ (p : Params) (f : List Nat), p.Legal → f.length = p.d → (∀ x ∈ f, x < p.q) → ntti p (nttf p f) = f

/-- R83 (c): the pointwise product in the NTT domain is the negacyclic convolution. -/
def Obligations.TransformConvolution : Prop :=
  ∀ (p : Params) (f g : List Nat), p.Legal → f.length = p.d → g.length = p.d → (∀ x ∈ f, x < p.q) →
    (∀ x ∈ g, x < p.q) →
    ntti p (mulPointwise p.q (nttf p f) (nttf p g)) =
      polyOf p fun k =>
        (convolution p.d (fun i => (at0 f i : Int)) (fun j => (at0 g j : Int)) k % (p.q : Int)).toNat

/-- R83 (d): both transforms are linear. -/
def Obligations.TransformLinear : Prop :=
  ∀ (p : Params) (f g : List Nat), p.Legal → f.length = p.d → g.length = p.d → (∀ x ∈ f, x < p.q) →
    (∀ x ∈ g, x < p.q) →
    nttf p (addMod p.q f g) = addMod p.q (nttf p f) (nttf p g) ∧
    ntti p (addMod p.q f g) = addMod p.q (ntti p f) (ntti p g)

/-- `43_codec.md` R129: deserializing what was serialized gives the polynomial back and the length is
`ceil(D*b/8)`; `SER`, a write of that length to `INLEN` and `DESER` with `aux8 = 0` copy the coefficients. -/
def Obligations.SerializationRoundTrip : Prop :=
  (∀ (p : Params) (v : List Nat) (b : Nat), 1 ≤ b → b ≤ 32 → v.length = p.d → (∀ x ∈ v, x < 2 ^ b) →
    deserialize p (serialize p v b) b = v ∧ (serialize p v b).length = ceilDiv (p.d * b) 8) ∧
  ∀ (s : State) (i k : BitVec 8) (b : BitVec 6) (a : BitVec 32), s.Sound → noCause (.ser i b a) s →
    (Instr.deser k b 0 a).wellFormed s.params = true →
    ∃ t u, exec (.ser i b a) s = .next t ∧
      exec (.deser k b 0 a) (t.csrStore 0x0B (BitVec.ofNat 32 (ceilDiv (s.params.d * b.toNat) 8))) = .next u ∧
      u.phase = .idle ∧ (u.slot k).c = (s.slot i).c

/-- R130: the round-trip error of compression is at most `ceil(q / 2^(b+1))`, as signed-normalized distance. -/
def Obligations.CompressionBound : Prop :=
  ∀ q b v : Nat, 0 < q → 1 ≤ b → v < q → ∀ a, a = decompress (compress v b q) b q →
    min (imod ((a : Int) - v) q) (imod ((v : Int) - a) q) ≤ ceilDiv q (2 ^ (b + 1))

/-- R131: reconciliation with the cross-rounding bit of `v` recovers the compression of `v` to one bit from
every `v + e` with `-floor(q2/8) <= e < floor(q2/8)`. -/
def Obligations.ReconciliationCorrect : Prop :=
  ∀ (q2 v : Nat) (e : Int), 2 ≤ q2 → v < q2 → -((q2 / 8 : Nat) : Int) ≤ e → e < ((q2 / 8 : Nat) : Int) →
    reconcile (imod ((v : Int) + e) q2) (crossRound v q2) q2 = compress v 1 q2

/-- `42_sampler.md` R106, R107, R110: the samplers give the accepted draws in order, as many draws as are first
enough; each rejected draw's bytes are lost. Bounded by the draws of one attempt (log 5). -/
def Obligations.RejectionLoops : Prop :=
  ∀ (p : Params) (st : Nat → Byte) (b pos pos' : Nat),
    (∀ v, sampleUniform p st b pos = some (v, pos') ↔
      ∃ n, n ≤ b ∧ pos' = pos + n * qbytes p ∧ v.length = p.d ∧
        let accepted := fun n => (List.range n).filterMap fun k =>
          let x := intLe (streamBytes st (pos + k * qbytes p) (qbytes p)) % 2 ^ qbits p
          if x < p.q then some x else none
        v = accepted n ∧ ∀ m, m < n → (accepted m).length < p.d) ∧
    (∀ v, sampleTernary p st b pos = some (v, pos') ↔
      ∃ n, n ≤ b ∧ pos' = pos + n ∧ v.length = ceilDiv p.d 5 ∧
        let accepted := fun n => (List.range n).filterMap fun k =>
          if (st (pos + k)).toNat < 243 then some (st (pos + k)) else none
        v = accepted n ∧ ∀ m, m < n → (accepted m).length < ceilDiv p.d 5) ∧
    (p.d % 2 = 0 → ∀ sigma v, sampleGaussian p sigma st b pos = some (v, pos') ↔
      ∃ n, n ≤ b ∧ pos' = pos + n * 16 ∧ v.length = p.d ∧
        let accepted := fun n => (List.range n).flatMap fun k =>
          match gaussMap p
            { tx := BitVec.ofNat 64 (intLe (streamBytes st (pos + k * 16) 8))
              ty := BitVec.ofNat 64 (intLe (streamBytes st (pos + k * 16 + 8) 8))
              sigma := sigma } with
          | none => []
          | some (z0, z1) => [(z0 % (p.q : Int)).toNat, (z1 % (p.q : Int)).toNat]
        v = accepted n ∧ ∀ m, m < n → (accepted m).length < p.d)

/-- R96: what a model may assume of `GAUSSMAP`: with `x = (tx + 1) / 2^63`, `y = (ty + 1) / 2^63` and
`s = x*x + y*y` it rejects exactly when not `0 < s <= 1`, and `s = 1` gives `(0, 0)`. -/
def Obligations.GaussmapProperties : Prop :=
  ∀ (p : Params) (g : GaussArg) (s : ℚ),
    s = (((g.tx.toInt : ℚ) + 1) / 2 ^ 63) ^ 2 + (((g.ty.toInt : ℚ) + 1) / 2 ^ 63) ^ 2 →
    (gaussMap p g = none ↔ ¬(0 < s ∧ s ≤ 1)) ∧ (s = 1 → gaussMap p g = some (0, 0))

/-- `44_protocol.md` R145: the inner product of `DECAP` and `DEC` is what the primitive commands compute:
`ACLR`, then for each `i` the unpacked `u` and the secret mod `2^DU` through `MACS`, then `ARED` mod `2^DU`. -/
def Obligations.DecapIsTheAccumulatorPath : Prop :=
  ∀ (g : Setting) (sk sct : List Byte), g.du ≤ 32 →
    decapW g sk sct =
      ((List.range g.m).foldl
        (fun acc i =>
          macAcc acc (deserialize g.p (sct.drop (i * g.szu)) g.du)
            ((smallDecode g ((sk.drop (i * g.szs)).take g.szs)).map fun x => imod x (2 ^ g.du)))
        (List.replicate g.p.d (0 : AccCell))).map fun a => imod a.toInt (2 ^ g.du)

/-! ### Errors (`60_exceptions.md`) -/

/-- R168 with R162 to R167: a command raises the error of the first class that has a cause, in the order
IllegalCommand, Parameter, Empty, Domain, Addr, Decode, and none where no class has one. That a command term
which fails the static checks raises as its word does is the model's choice: log 16 (DEDUCED). -/
def Obligations.ErrorsInOrder : Prop :=
  ∀ (i : Instr) (s : State), ∃ t, exec i s = .next t ∧
    (i.wellFormed s.params = false → t.phase = .error ∧ t.errCode = 3) ∧
    (i.wellFormed s.params = true →
      (parameterCause i s → t.phase = .error ∧ t.errCode = 2) ∧
      (¬parameterCause i s → emptyCause i s → t.phase = .error ∧ t.errCode = 4) ∧
      (¬parameterCause i s → ¬emptyCause i s → domainCause i s → t.phase = .error ∧ t.errCode = 5) ∧
      (¬parameterCause i s → ¬emptyCause i s → ¬domainCause i s → addrCause i s →
        t.phase = .error ∧ t.errCode = 6) ∧
      (¬parameterCause i s → ¬emptyCause i s → ¬domainCause i s → ¬addrCause i s → decodeCause i s →
        t.phase = .error ∧ t.errCode = 1) ∧
      (noCause i s → t.phase ≠ .error))

/-- R177: the errors each command can raise. -/
def Obligations.ErrorsPerCommand : Prop :=
  ∀ (i : Instr) (s t : State), exec i s = .next t → t.phase = .error →
    (i.wellFormed s.params = false ∧ t.errCode = 3) ∨
    (i.wellFormed s.params = true ∧ ∃ e ∈ allowedErrors i, t.errCode = e.code)

/-- R160: what an error changes: the error registers and `STATE`; for a protocol command and an error other
than `IllegalCommand` the scratch is cleared; for `LDCFG` `CFG_VALID` is 0; nothing else. -/
def Obligations.ErrorEntry : Prop :=
  ∀ (i : Instr) (s t : State), exec i s = .next t → t.phase = .error →
    1 ≤ t.errCode.toNat ∧ t.errCode.toNat ≤ 6 ∧ t.errInfo = (encode i).setWidth 32 ∧
    (if isProtocol i = true ∧ t.errCode ≠ 3 then
      t = { s with
        slots := t.slots, accValid := t.accValid, xs := t.xs, errCode := t.errCode, errInfo := t.errInfo,
        phase := .error, flight := none } ∧ t.ScratchCleared
    else if i = .ldcfg then
      t = { s with cfgValid := false, errCode := t.errCode, errInfo := t.errInfo, phase := .error, flight := none }
    else
      t = { s with errCode := t.errCode, errInfo := t.errInfo, phase := .error, flight := none })

/-! ### Whole-machine rules -/

/-- `44_protocol.md` R138, `10_state.md` R42: whether a protocol command succeeds or raises, the scratch is
cleared; `AMAT` (but for `SETUP`), `BMEM` outside the output ranges and every control register other than
`STATUS`, `ERRCODE`, `ERRINFO` are unchanged. -/
def Obligations.ProtocolClearsScratch : Prop :=
  ∀ (i : Instr) (s t : State), isProtocol i = true → exec i s = .next t → t.phase ≠ .busy →
    t.ScratchCleared ∧
    t = { s with
      slots := t.slots, accValid := t.accValid, xs := t.xs, amat := t.amat, aValid := t.aValid, bmem := t.bmem,
      errCode := t.errCode, errInfo := t.errInfo, phase := t.phase, flight := none, freeCtr := t.freeCtr } ∧
    (i ≠ .setup → t.amat = s.amat ∧ t.aValid = s.aValid) ∧
    Memory.SameOutside s.bmem t.bmem (outputRanges i s)

/-- R138: a protocol command reads no slot, accumulator cell or stream context of the state it starts from:
whatever stands there, everything else ends the same. -/
def Obligations.ProtocolIgnoresScratch : Prop :=
  ∀ (i : Instr) (s t : State) (slots : List Slot) (acc : List AccCell) (accValid : Bool)
    (xs : Vector StreamCtx 4), isProtocol i = true → exec i s = .next t →
    ∃ u, exec i { s with slots := slots, acc := acc, accValid := accValid, xs := xs } = .next u ∧
      { u with slots := t.slots, acc := t.acc, accValid := t.accValid, xs := t.xs } = t

/-- `10_state.md` R25, R34, R35, `44_protocol.md` R156: no command writes `CFG0`, `SIGMA0`, `SIGMA1`, `INLEN`, an
`ARG` register or `CMDCNT` (which acceptance counts); only `SETUP` writes the matrix and `A_VALID`; only `LDCFG`
writes `CFG_VALID`; a byte of `BMEM` outside the command's output ranges never changes, and no byte changes
unless the command ends without error. -/
def Obligations.UntouchedState : Prop :=
  ∀ (i : Instr) (s t : State), exec i s = .next t →
    t.cfg0 = s.cfg0 ∧ t.sigma0 = s.sigma0 ∧ t.sigma1 = s.sigma1 ∧ t.inLen = s.inLen ∧ t.args = s.args ∧
    t.cmdCnt = s.cmdCnt ∧ t.params = s.params ∧ t.port = s.port ∧
    (i ≠ .setup → t.amat = s.amat ∧ t.aValid = s.aValid) ∧ (i ≠ .ldcfg → t.cfgValid = s.cfgValid) ∧
    Memory.SameOutside s.bmem t.bmem (outputRanges i s) ∧ (t.phase ≠ .idle → t.bmem = s.bmem)

/-- Log 6 (the model's own form of `BMEM`) and `20_memory.md` R46: every step keeps the memory in canonical form
and inside `BMEM`. -/
def Obligations.MemoryKept : Prop :=
  ∀ s t : State, s.MemoryOk → step s = .next t → t.MemoryOk

/-- `40_system.md` R76 with `10_state.md` R36: in every step, `CFG_VALID = 1` or `A_VALID = 1` goes with a legal
configuration. -/
def Obligations.ConfigurationKept : Prop :=
  ∀ s t : State, s.ConfigOk → step s = .next t → t.ConfigOk

/-- `10_state.md` R21, R24 to R26: every step keeps the number of slots, the `D` cells of every slot, of the
accumulator and of every matrix entry, and seeds of at most 255 bytes. -/
def Obligations.ShapeKept : Prop :=
  ∀ s t : State, s.params.Legal → s.ConfigOk → s.ShapeOk → step s = .next t → t.ShapeOk ∧ t.params = s.params

/-- R23: in every step, every coefficient of a slot tagged `COEF` or `NTT` (and of the matrix, R25) stays in
`[0, Q)`. -/
def Obligations.ResiduesKept : Prop :=
  ∀ s t : State, s.params.Legal → s.ResiduesOk → step s = .next t → t.ResiduesOk

/-- R39 and `60_exceptions.md` R173: in every step, the error registers describe the one error of the current
`ERROR` state, do not change while it lasts, and are 0 otherwise. -/
def Obligations.ErrorRegistersKept : Prop :=
  ∀ s t : State, s.ErrorOk → step s = .next t →
    t.ErrorOk ∧ (s.phase = .error → t.phase = .error → t.errCode = s.errCode ∧ t.errInfo = s.errInfo)

/-- The invariants hold right after reset, and of every legal instance with every canonical `BMEM` (`20_memory.md`
R47: the initial content is arbitrary). -/
def Obligations.InvariantsAtReset : Prop :=
  State.reset.Sound ∧ State.reset.ErrorOk ∧
  ∀ (p : Params) (m : Memory), p.Legal → Memory.wf m → (∀ x ∈ m, x.1 < p.bmemBytes) →
    (State.launch p m).Sound ∧ (State.launch p m).ErrorOk

/-- `70_reset_and_hazards.md` R190: only the commands that sample by rejection can still be running after an
attempt, with nothing of them visible; and while the state stays `BUSY`, a step changes nothing that is the
spec's. -/
def Obligations.OnlySamplingRunsOn : Prop :=
  (∀ (i : Instr) (s t : State), exec i s = .next t → t.phase = .busy →
    mayRunOn i s ∧ ∃ b, t = { s with phase := .busy, flight := some { instr := i, budget := b } }) ∧
  ∀ s t : State, s.phase = .busy → step s = .next t → t.phase = .busy →
    t = { s with
      port := t.port, flight := t.flight, csrData := t.csrData, bmemData := t.bmemData, freeCtr := t.freeCtr } ∧
    t.flight.map Flight.instr = s.flight.map Flight.instr

/-- Log 5 (the model's way to run the loop of `42_sampler.md` R111): a `SMPU` in flight whose stream yields
enough accepted draws ends after finitely many of the engine's own moves, with the sample R106 defines. -/
def Obligations.RejectionLoopEnds : Prop :=
  ∀ (s : State) (pd : BitVec 8) (k : BitVec 2) (sub : BitVec 4) (b draws : Nat) (v : List Nat) (pos : Nat),
    s.Sound → noCause (.smpu pd k sub) s → s.phase = .busy → s.port = [] → 0 < b →
    s.flight = some { instr := .smpu pd k sub, budget := b } →
    sampleUniform s.params (xofStream s.params (s.stream k).kind (s.stream k).seed) draws (s.stream k).pos =
      some (v, pos) →
    ∃ n t, n ≤ draws + 1 ∧ Host.Core.run core n s = .next t ∧
      t.Holds pd (if sub = 0 then .coef else .ntt) (at0 v) ∧ SampleFrame s t pd k pos
end

