-- ==== Sys2Proof/Laws/Decode.lean ====
section
/-! SUPPORT. The layout of command words: each field of an encoded word is read back, and a word whose
`zero` field is 0 is its own fields put together again (`30_encoding.md` R61 to R64). -/

namespace Sys2Proof

/-- A field inside the lower part of two joined words. -/
theorem extract_append_low {n m : Nat} (x : BitVec n) (y : BitVec m) (s l : Nat) (h : s + l ≤ m) :
    (x ++ y).extractLsb' s l = y.extractLsb' s l := by
  ext i hi
  simp only [BitVec.getElem_extractLsb', BitVec.getLsbD_append]
  have : s + i < m := by omega
  simp [this]

/-- A field inside the upper part of two joined words. -/
theorem extract_append_high {n m : Nat} (x : BitVec n) (y : BitVec m) (s l : Nat) (h : m ≤ s) :
    (x ++ y).extractLsb' s l = x.extractLsb' (s - m) l := by
  ext i hi
  simp only [BitVec.getElem_extractLsb', BitVec.getLsbD_append]
  have h1 : ¬ s + i < m := by omega
  have h2 : s + i - m = s - m + i := by omega
  simp [h1, h2]

/-- Two adjacent fields joined are one field. -/
theorem extract_append_extract (w : Cmd) {s l k s' : Nat} (hs : s' = s + l) :
    w.extractLsb' s' k ++ w.extractLsb' s l = w.extractLsb' s (k + l) := by
  subst hs
  ext i hi
  simp only [BitVec.getElem_append, BitVec.getElem_extractLsb']
  split
  · rfl
  · congr 1; omega

section FormatR
variable (op pd pa pb : BitVec 8) (bits : BitVec 6) (msel xs : BitVec 2) (sub sub2 : BitVec 4) (mbits : BitVec 6)

theorem wordR_op : (wordR op pd pa pb bits msel xs sub sub2 mbits).extractLsb' 0 8 = op := by
  unfold wordR
  simp (disch := omega) only [extract_append_low, BitVec.extractLsb'_eq_self]

theorem wordR_pd : pdOf (wordR op pd pa pb bits msel xs sub sub2 mbits) = pd := by
  unfold pdOf wordR
  simp (disch := omega) only [extract_append_low, extract_append_high, Nat.reduceSub, BitVec.extractLsb'_eq_self]

theorem wordR_pa : paOf (wordR op pd pa pb bits msel xs sub sub2 mbits) = pa := by
  unfold paOf wordR
  simp (disch := omega) only [extract_append_low, extract_append_high, Nat.reduceSub, BitVec.extractLsb'_eq_self]

theorem wordR_pb : pbOf (wordR op pd pa pb bits msel xs sub sub2 mbits) = pb := by
  unfold pbOf wordR
  simp (disch := omega) only [extract_append_low, extract_append_high, Nat.reduceSub, BitVec.extractLsb'_eq_self]

theorem wordR_bits : bitsOf (wordR op pd pa pb bits msel xs sub sub2 mbits) = bits := by
  unfold bitsOf wordR
  simp (disch := omega) only [extract_append_low, extract_append_high, Nat.reduceSub, BitVec.extractLsb'_eq_self]

theorem wordR_msel : mselOf (wordR op pd pa pb bits msel xs sub sub2 mbits) = msel := by
  unfold mselOf wordR
  simp (disch := omega) only [extract_append_low, extract_append_high, Nat.reduceSub, BitVec.extractLsb'_eq_self]

theorem wordR_xs : xsOf (wordR op pd pa pb bits msel xs sub sub2 mbits) = xs := by
  unfold xsOf wordR
  simp (disch := omega) only [extract_append_low, extract_append_high, Nat.reduceSub, BitVec.extractLsb'_eq_self]

theorem wordR_sub : subOf (wordR op pd pa pb bits msel xs sub sub2 mbits) = sub := by
  unfold subOf wordR
  simp (disch := omega) only [extract_append_low, extract_append_high, Nat.reduceSub, BitVec.extractLsb'_eq_self]

theorem wordR_sub2 : sub2Of (wordR op pd pa pb bits msel xs sub sub2 mbits) = sub2 := by
  unfold sub2Of wordR
  simp (disch := omega) only [extract_append_low, extract_append_high, Nat.reduceSub, BitVec.extractLsb'_eq_self]

theorem wordR_mbits : mbitsOf (wordR op pd pa pb bits msel xs sub sub2 mbits) = mbits := by
  unfold mbitsOf wordR
  simp (disch := omega) only [extract_append_low, extract_append_high, Nat.reduceSub, BitVec.extractLsb'_eq_self]

theorem wordR_zero : (wordR op pd pa pb bits msel xs sub sub2 mbits).extractLsb' 56 8 = 0 := by
  unfold wordR
  simp (disch := omega) only [extract_append_high, Nat.reduceSub, BitVec.extractLsb'_eq_self]
  rfl
end FormatR

section FormatM
variable (op ps : BitVec 8) (bits : BitVec 6) (xs : BitVec 2) (aux8 : BitVec 8) (addr : BitVec 32)

theorem wordM_op : (wordM op ps bits xs aux8 addr).extractLsb' 0 8 = op := by
  unfold wordM
  simp (disch := omega) only [extract_append_low, BitVec.extractLsb'_eq_self]

theorem wordM_ps : psOfM (wordM op ps bits xs aux8 addr) = ps := by
  unfold psOfM wordM
  simp (disch := omega) only [extract_append_low, extract_append_high, Nat.reduceSub, BitVec.extractLsb'_eq_self]

theorem wordM_bits : bitsOfM (wordM op ps bits xs aux8 addr) = bits := by
  unfold bitsOfM wordM
  simp (disch := omega) only [extract_append_low, extract_append_high, Nat.reduceSub, BitVec.extractLsb'_eq_self]

theorem wordM_xs : xsOfM (wordM op ps bits xs aux8 addr) = xs := by
  unfold xsOfM wordM
  simp (disch := omega) only [extract_append_low, extract_append_high, Nat.reduceSub, BitVec.extractLsb'_eq_self]

theorem wordM_aux8 : auxOfM (wordM op ps bits xs aux8 addr) = aux8 := by
  unfold auxOfM wordM
  simp (disch := omega) only [extract_append_low, extract_append_high, Nat.reduceSub, BitVec.extractLsb'_eq_self]

theorem wordM_addr : addrOfM (wordM op ps bits xs aux8 addr) = addr := by
  unfold addrOfM wordM
  simp (disch := omega) only [extract_append_high, Nat.reduceSub, BitVec.extractLsb'_eq_self]

end FormatM

section FormatI
variable (op pd pa : BitVec 8) (imm32 : BitVec 32)

theorem wordI_op : (wordI op pd pa imm32).extractLsb' 0 8 = op := by
  unfold wordI
  simp (disch := omega) only [extract_append_low, BitVec.extractLsb'_eq_self]

theorem wordI_pd : pdOf (wordI op pd pa imm32) = pd := by
  unfold pdOf wordI
  simp (disch := omega) only [extract_append_low, extract_append_high, Nat.reduceSub, BitVec.extractLsb'_eq_self]

theorem wordI_pa : paOf (wordI op pd pa imm32) = pa := by
  unfold paOf wordI
  simp (disch := omega) only [extract_append_low, extract_append_high, Nat.reduceSub, BitVec.extractLsb'_eq_self]

theorem wordI_imm32 : immOfI (wordI op pd pa imm32) = imm32 := by
  unfold immOfI wordI
  simp (disch := omega) only [extract_append_high, Nat.reduceSub, BitVec.extractLsb'_eq_self]

theorem wordI_zero : (wordI op pd pa imm32).extractLsb' 24 8 = 0 := by
  unfold wordI
  simp (disch := omega) only [extract_append_low, extract_append_high, Nat.reduceSub, BitVec.extractLsb'_eq_self]
  rfl
end FormatI

theorem wordS_op (op : BitVec 8) : (wordS op).extractLsb' 0 8 = op := by
  unfold wordS
  simp (disch := omega) only [extract_append_low, BitVec.extractLsb'_eq_self]

theorem wordS_zero (op : BitVec 8) : (wordS op).extractLsb' 8 56 = 0 := by
  unfold wordS
  simp (disch := omega) only [extract_append_high, Nat.reduceSub, BitVec.extractLsb'_eq_self]
  rfl

/-- A format R word is its fields put together. -/
theorem wordR_of_fields (w : Cmd) (hz : w.extractLsb' 56 8 = 0) :
    wordR (w.extractLsb' 0 8) (pdOf w) (paOf w) (pbOf w) (bitsOf w) (mselOf w) (xsOf w) (subOf w) (sub2Of w)
      (mbitsOf w) = w := by
  unfold wordR pdOf paOf pbOf bitsOf mselOf xsOf subOf sub2Of mbitsOf
  have hz' : (0#8) = w.extractLsb' 56 8 := hz.symm
  rw [hz']
  simp (disch := rfl) only [extract_append_extract]
  exact BitVec.extractLsb'_eq_self

/-- A format M word is its fields put together. -/
theorem wordM_of_fields (w : Cmd) :
    wordM (w.extractLsb' 0 8) (psOfM w) (bitsOfM w) (xsOfM w) (auxOfM w) (addrOfM w) = w := by
  unfold wordM psOfM bitsOfM xsOfM auxOfM addrOfM
  simp (disch := rfl) only [extract_append_extract]
  exact BitVec.extractLsb'_eq_self

/-- A format I word is its fields put together. -/
theorem wordI_of_fields (w : Cmd) (hz : w.extractLsb' 24 8 = 0) :
    wordI (w.extractLsb' 0 8) (pdOf w) (paOf w) (immOfI w) = w := by
  unfold wordI pdOf paOf immOfI
  have hz' : (0#8) = w.extractLsb' 24 8 := hz.symm
  rw [hz']
  simp (disch := rfl) only [extract_append_extract]
  exact BitVec.extractLsb'_eq_self

/-- A format S word is its opcode. -/
theorem wordS_of_fields (w : Cmd) (hz : w.extractLsb' 8 56 = 0) : wordS (w.extractLsb' 0 8) = w := by
  unfold wordS
  have hz' : (0#56) = w.extractLsb' 8 56 := hz.symm
  rw [hz']
  simp (disch := rfl) only [extract_append_extract]
  exact BitVec.extractLsb'_eq_self

end Sys2Proof
end

