-- ==== Sys2Proof/Laws/Memory.lean ====
section
/-! SUPPORT. The laws of `BMEM`: a byte written is read back, every other byte is as before, the canonical
form is kept, byte strings are read back, and every byte outside a string written is as before. -/

namespace Sys2Proof.Machine

/-- Looking up an address in a memory with a first entry. -/
theorem lookup_cell (y : Host.Cell) (rest : Memory) (a : Nat) :
    (y :: rest : Memory).lookup a = if a = y.1 then some y.2 else rest.lookup a := by
  obtain ⟨k, v⟩ := y
  rw [List.lookup_cons]
  by_cases h : a = k
  · simp [h]
  · simp [h, beq_eq_false_iff_ne.mpr h]

/-- A list of cells whose addresses all lie above `a` says nothing of `a`. -/
theorem lookup_eq_none_of_lt {m : Memory} {a : Nat} (h : ∀ x ∈ m, a < x.1) : m.lookup a = none := by
  induction m with
  | nil => rfl
  | cons x rest ih =>
    have hx : a < x.1 := h x (by simp)
    rw [lookup_cell, if_neg (by omega)]
    exact ih fun y hy => h y (by simp [hy])

/-- The addresses of a memory after a write are its own or the one written. -/
theorem Memory.mem_write {m : Memory} {a : Nat} {b : Byte} {x : Host.Cell} (h : x ∈ Memory.write m a b) :
    x ∈ m ∨ (x = (a, b) ∧ b ≠ Config.bmemFill) := by
  induction m with
  | nil =>
    simp only [Memory.write] at h
    split at h <;> simp_all
  | cons y rest ih =>
    simp only [Memory.write] at h
    split at h
    · split at h <;> simp_all
      tauto
    · split at h
      · split at h <;> simp_all
        tauto
      · rcases List.mem_cons.mp h with h | h
        · exact .inl (by simp [h])
        · rcases ih h with h | h
          · exact .inl (by simp [h])
          · exact .inr h

/-- A write keeps the canonical form. -/
theorem Memory.wf_write {m : Memory} (h : Memory.wf m) (a : Nat) (b : Byte) : Memory.wf (Memory.write m a b) := by
  induction m with
  | nil =>
    simp only [Memory.write]
    split
    · exact h
    · exact ⟨by simp, by simpa using ‹_›⟩
  | cons y rest ih =>
    obtain ⟨hs, hf⟩ := h
    obtain ⟨hy, hr⟩ := List.pairwise_cons.mp hs
    have hrest : Memory.wf rest := ⟨hr, fun x hx => hf x (by simp [hx])⟩
    simp only [Memory.write]
    split
    · split
      · exact ⟨hs, hf⟩
      · refine ⟨List.pairwise_cons.mpr ⟨fun x hx => ?_, hs⟩, fun x hx => ?_⟩
        · rcases List.mem_cons.mp hx with hx | hx
          · simp_all
          · have := hy x hx
            simp only; omega
        · rcases List.mem_cons.mp hx with hx | hx
          · simp_all
          · exact hf x hx
    · split
      · split
        · exact hrest
        · refine ⟨List.pairwise_cons.mpr ⟨fun x hx => ?_, hr⟩, fun x hx => ?_⟩
          · have := hy x hx
            simp only; omega
          · rcases List.mem_cons.mp hx with hx | hx
            · simp_all
            · exact hf x (by simp [hx])
      · obtain ⟨ihs, ihf⟩ := ih hrest
        refine ⟨List.pairwise_cons.mpr ⟨fun x hx => ?_, ihs⟩, fun x hx => ?_⟩
        · rcases Memory.mem_write hx with hx | ⟨hx, -⟩
          · exact hy x hx
          · subst hx; simp only; omega
        · rcases List.mem_cons.mp hx with hx | hx
          · exact hf x (by simp [hx])
          · exact ihf x hx

/-- The byte written is read back. -/
theorem Memory.read_write_same {m : Memory} (h : Memory.wf m) (a : Nat) (b : Byte) :
    Memory.read (Memory.write m a b) a = b := by
  induction m with
  | nil =>
    simp only [Memory.write]
    split <;> simp_all [Memory.read]
  | cons y rest ih =>
    obtain ⟨hs, hf⟩ := h
    obtain ⟨hy, hr⟩ := List.pairwise_cons.mp hs
    have hrest : Memory.wf rest := ⟨hr, fun x hx => hf x (by simp [hx])⟩
    simp only [Memory.write]
    split
    · rename_i hlt
      split
      · rename_i hb
        have : (y :: rest).lookup a = none :=
          lookup_eq_none_of_lt fun x hx => by
            rcases List.mem_cons.mp hx with hx | hx
            · exact hx ▸ hlt
            · exact lt_trans hlt (hy x hx)
        simp [Memory.read, this, hb]
      · simp [Memory.read]
    · split
      · rename_i heq
        split
        · rename_i hb
          have : rest.lookup a = none := lookup_eq_none_of_lt fun x hx => heq ▸ hy x hx
          simp [Memory.read, this, hb]
        · simp [Memory.read]
      · have := ih hrest
        rw [Memory.read] at this ⊢
        rwa [lookup_cell, if_neg (by omega)]

/-- Every other byte is as before a write. -/
theorem Memory.read_write_other (m : Memory) {a a' : Nat} (hne : a' ≠ a) (b : Byte) :
    Memory.read (Memory.write m a b) a' = Memory.read m a' := by
  induction m with
  | nil =>
    simp only [Memory.write]
    split
    · rfl
    · rw [Memory.read, lookup_cell, if_neg hne, Memory.read]
  | cons y rest ih =>
    simp only [Memory.write]
    split
    · split
      · rfl
      · rw [Memory.read, lookup_cell, if_neg hne, Memory.read]
    · split
      · rename_i heq
        have hy : a' ≠ y.1 := heq ▸ hne
        split
        · rw [Memory.read, Memory.read, lookup_cell, if_neg hy]
        · rw [Memory.read, Memory.read, lookup_cell, if_neg hne, lookup_cell, if_neg hy]
      · rw [Memory.read, Memory.read] at ih ⊢
        rw [lookup_cell, lookup_cell]
        split
        · rfl
        · exact ih

/-- Writing a byte string keeps the canonical form. -/
theorem Memory.wf_writeBytes {m : Memory} (h : Memory.wf m) (a : Nat) (bs : List Byte) :
    Memory.wf (Memory.writeBytes m a bs) := by
  induction bs generalizing m a with
  | nil => exact h
  | cons b bs ih => exact ih (Memory.wf_write h a b) (a + 1)

/-- Every byte outside a byte string written is as before. -/
theorem Memory.read_writeBytes_outside (m : Memory) (a : Nat) (bs : List Byte) {x : Nat}
    (h : x < a ∨ a + bs.length ≤ x) : Memory.read (Memory.writeBytes m a bs) x = Memory.read m x := by
  induction bs generalizing m a with
  | nil => rfl
  | cons b bs ih =>
    simp only [List.length_cons] at h
    rw [Memory.writeBytes, ih _ _ (by omega), Memory.read_write_other _ (by omega)]

/-- A byte of a byte string written is read back. -/
theorem Memory.read_writeBytes_inside {m : Memory} (hm : Memory.wf m) (a : Nat) (bs : List Byte) {k : Nat}
    (h : k < bs.length) : Memory.read (Memory.writeBytes m a bs) (a + k) = bs[k] := by
  induction bs generalizing m a k with
  | nil => simp at h
  | cons b bs ih =>
    rw [Memory.writeBytes]
    cases k with
    | zero =>
      rw [Memory.read_writeBytes_outside _ _ _ (by omega)]
      exact Memory.read_write_same hm a b
    | succ k =>
      have := ih (Memory.wf_write hm a b) (a + 1) (k := k) (by simpa using h)
      simpa [Nat.add_assoc, Nat.add_comm 1 k] using this

/-- A byte string written is read back. -/
theorem Memory.readBytes_writeBytes {m : Memory} (hm : Memory.wf m) (a : Nat) (bs : List Byte) :
    Memory.readBytes (Memory.writeBytes m a bs) a bs.length = bs := by
  apply List.ext_getElem
  · simp [Memory.readBytes]
  · intro k h1 h2
    simp [Memory.readBytes, Memory.read_writeBytes_inside hm a bs h2]

@[simp] theorem Memory.length_readBytes (m : Memory) (a n : Nat) : (Memory.readBytes m a n).length = n := by
  simp [Memory.readBytes]

/-- The memory of a reset is canonical. -/
theorem Memory.wf_ofBytes (size : Nat) (bytes : List Host.Cell) : Memory.wf (Memory.ofBytes size bytes) := by
  suffices ∀ m, Memory.wf m →
      Memory.wf (bytes.foldl (fun m x => if x.1 < size then Memory.write m x.1 x.2 else m) m) from
    this [] ⟨List.Pairwise.nil, by simp⟩
  intro m hm
  induction bytes generalizing m with
  | nil => exact hm
  | cons x rest ih =>
    refine ih _ ?_
    dsimp only
    split
    · exact Memory.wf_write hm _ _
    · exact hm

/-- The machine's memory right after reset is canonical. -/
theorem State.reset_bmem_wf : Memory.wf State.reset.bmem := ⟨List.Pairwise.nil, by simp [State.reset, State.launch]⟩

end Sys2Proof.Machine
end

