-- ==== Sys2Proof/Laws/Numbers.lean ====
section
/-! SUPPORT. Bounds and lengths of the pure functions: residues, digits, byte strings, rejection loops. -/

namespace Sys2Proof.Machine

/-- `x mod m` lies in `[0, m)` (`00_scope.md` R15). -/
theorem imod_lt (x : Int) {m : Nat} (h : 0 < m) : imod x m < m := by
  have h1 := Int.emod_nonneg x (b := m) (by omega)
  have h2 := Int.emod_lt_of_pos x (b := m) (by omega)
  unfold imod
  omega

/-- On natural numbers `imod` is the remainder. -/
theorem imod_natCast (x m : Nat) : imod x m = x % m := by
  unfold imod
  omega

/-- `imod` is congruent to its argument. -/
theorem imod_cast (x : Int) {m : Nat} (h : 0 < m) : ((imod x m : Nat) : Int) = x % m := by
  have h1 := Int.emod_nonneg x (b := m) (by omega)
  unfold imod
  omega

@[simp] theorem length_digits (w n x : Nat) : (digits w n x).length = n := by
  induction n generalizing x with
  | zero => rfl
  | succ n ih => simp [digits, ih]

theorem digits_lt (w n x : Nat) : ∀ v ∈ digits w n x, v < 2 ^ w := by
  induction n generalizing x with
  | zero => simp [digits]
  | succ n ih =>
    intro v hv
    rcases List.mem_cons.mp hv with hv | hv
    · exact hv ▸ Nat.mod_lt _ (by positivity)
    · exact ih _ v hv

@[simp] theorem length_bytesOf (n x : Nat) : (bytesOf n x).length = n := by simp [bytesOf]

@[simp] theorem length_serialize (p : Params) (v : List Nat) (b : Nat) :
    (serialize p v b).length = packedLen p b := by simp [serialize]

@[simp] theorem length_deserialize (p : Params) (s : List Byte) (b : Nat) :
    (deserialize p s b).length = p.d := by simp [deserialize]

@[simp] theorem length_cellsOf (v : List Nat) : (cellsOf v).length = v.length := by simp [cellsOf]

@[simp] theorem length_natsOf (f : Poly) : (natsOf f).length = f.length := by simp [natsOf]

/-- Numbers below `2^32` survive being stored in cells. -/
theorem natsOf_cellsOf {v : List Nat} (h : ∀ x ∈ v, x < 2 ^ 32) : natsOf (cellsOf v) = v := by
  simp only [natsOf, cellsOf, List.map_map]
  conv_rhs => rw [← List.map_id v]
  refine List.map_congr_left fun x hx => ?_
  simpa using Nat.mod_eq_of_lt (h x hx)

theorem cellsOf_natsOf (f : Poly) : cellsOf (natsOf f) = f := by
  simp only [natsOf, cellsOf, List.map_map]
  conv_rhs => rw [← List.map_id f]
  refine List.map_congr_left fun x _ => ?_
  simp

section Collect
variable {α : Type} {draw : Nat → List α} {width : Nat}

/-- A rejection loop that ends gives exactly what was needed. -/
theorem collect_length {budget need pos : Nat} {xs : List α} {pos' : Nat}
    (h : collect draw width budget need pos = some (xs, pos')) : xs.length = need := by
  induction budget generalizing need pos xs pos' with
  | zero =>
    cases need with
    | zero => simp_all [collect]
    | succ n => simp [collect] at h
  | succ b ih =>
    cases need with
    | zero => simp_all [collect]
    | succ n =>
      simp only [collect] at h
      split at h
      · cases h
      · rename_i rest q hrec
        cases h
        have := ih hrec
        have hle : ((draw pos).take (n + 1)).length ≤ n + 1 := by simp
        simp only [List.length_append]
        omega

/-- Every value of a rejection loop was accepted by some draw. -/
theorem collect_mem {budget need pos : Nat} {xs : List α} {pos' : Nat}
    (h : collect draw width budget need pos = some (xs, pos')) : ∀ x ∈ xs, ∃ k, x ∈ draw k := by
  induction budget generalizing need pos xs pos' with
  | zero =>
    cases need with
    | zero => simp_all [collect]
    | succ n => simp [collect] at h
  | succ b ih =>
    cases need with
    | zero => simp_all [collect]
    | succ n =>
      simp only [collect] at h
      split at h
      · cases h
      · rename_i rest q hrec
        cases h
        intro x hx
        rcases List.mem_append.mp hx with hx | hx
        · exact ⟨pos, List.mem_of_mem_take hx⟩
        · exact ih hrec x hx

/-- More draws do not change the outcome of a rejection loop that ends. -/
theorem collect_mono {budget budget' need pos : Nat} {r : List α × Nat} (hb : budget ≤ budget')
    (h : collect draw width budget need pos = some r) : collect draw width budget' need pos = some r := by
  induction budget generalizing budget' need pos r with
  | zero =>
    cases need with
    | zero => cases budget' <;> simpa [collect] using h
    | succ n => simp [collect] at h
  | succ b ih =>
    obtain ⟨b', rfl⟩ : ∃ b', budget' = b' + 1 := ⟨budget' - 1, by omega⟩
    cases need with
    | zero => simpa [collect] using h
    | succ n =>
      simp only [collect] at h ⊢
      split at h
      · cases h
      · rename_i rest q hrec
        rw [ih (by omega) hrec]
        exact h

end Collect

/-- `SampleUniform` gives no value `>= Q` (`42_sampler.md` R112). -/
theorem sampleUniform_lt {p : Params} {st : Nat → Byte} {budget pos : Nat} {v : List Nat} {pos' : Nat}
    (h : sampleUniform p st budget pos = some (v, pos')) : ∀ x ∈ v, x < p.q := by
  intro x hx
  obtain ⟨k, hk⟩ := collect_mem h x hx
  simp only [drawUniform] at hk
  split at hk <;> simp_all

/-- `SampleUniform` gives `D` values. -/
theorem sampleUniform_length {p : Params} {st : Nat → Byte} {budget pos : Nat} {v : List Nat} {pos' : Nat}
    (h : sampleUniform p st budget pos = some (v, pos')) : v.length = p.d := collect_length h

/-- `SampleTernaryBytes` gives `SZT` bytes. -/
theorem sampleTernary_length {p : Params} {st : Nat → Byte} {budget pos : Nat} {v : List Byte} {pos' : Nat}
    (h : sampleTernary p st budget pos = some (v, pos')) : v.length = szt p := collect_length h

/-- `SampleGaussian` gives `D` values. -/
theorem sampleGaussian_length {p : Params} {sigma : Word} {st : Nat → Byte} {budget pos : Nat} {v : List Nat}
    {pos' : Nat} (h : sampleGaussian p sigma st budget pos = some (v, pos')) : v.length = p.d := collect_length h

theorem allSome_eq_some {α : Type} {l : List (Option α)} {xs : List α} :
    allSome l = some xs ↔ l = xs.map some := by
  induction l generalizing xs with
  | nil => cases xs <;> simp [allSome]
  | cons x rest ih =>
    cases x with
    | none => cases xs <;> simp [allSome]
    | some x =>
      simp only [allSome]
      cases hr : allSome rest with
      | none =>
        cases xs with
        | nil => simp
        | cons y ys =>
          simp only [reduceCtorEq, List.map_cons, List.cons.injEq, false_iff, not_and]
          intro _ h
          simp [ih.mpr h] at hr
      | some zs =>
        cases xs with
        | nil => simp
        | cons y ys => simp [← ih, hr]

end Sys2Proof.Machine
end

