-- ==== Sys2Proof/Laws/State.lean ====
section
/-! SUPPORT. What each field of the state is after each shared update: one lemma per field per update, all
true by unfolding the record update once, so that no later proof does. -/

namespace Sys2Proof.Machine

section
variable (s : State)

/-! ### `finish` -/

@[simp] theorem State.finish_params : (s.finish).params = s.params := rfl
@[simp] theorem State.finish_slots : (s.finish).slots = s.slots := rfl
@[simp] theorem State.finish_acc : (s.finish).acc = s.acc := rfl
@[simp] theorem State.finish_accValid : (s.finish).accValid = s.accValid := rfl
@[simp] theorem State.finish_amat : (s.finish).amat = s.amat := rfl
@[simp] theorem State.finish_aValid : (s.finish).aValid = s.aValid := rfl
@[simp] theorem State.finish_bmem : (s.finish).bmem = s.bmem := rfl
@[simp] theorem State.finish_xs : (s.finish).xs = s.xs := rfl
@[simp] theorem State.finish_phase : (s.finish).phase = .idle := rfl
@[simp] theorem State.finish_cfgValid : (s.finish).cfgValid = s.cfgValid := rfl
@[simp] theorem State.finish_errCode : (s.finish).errCode = s.errCode := rfl
@[simp] theorem State.finish_errInfo : (s.finish).errInfo = s.errInfo := rfl
@[simp] theorem State.finish_cmdCnt : (s.finish).cmdCnt = s.cmdCnt := rfl
@[simp] theorem State.finish_cfg0 : (s.finish).cfg0 = s.cfg0 := rfl
@[simp] theorem State.finish_sigma0 : (s.finish).sigma0 = s.sigma0 := rfl
@[simp] theorem State.finish_sigma1 : (s.finish).sigma1 = s.sigma1 := rfl
@[simp] theorem State.finish_inLen : (s.finish).inLen = s.inLen := rfl
@[simp] theorem State.finish_args : (s.finish).args = s.args := rfl
@[simp] theorem State.finish_flight : (s.finish).flight = none := rfl
@[simp] theorem State.finish_port : (s.finish).port = s.port := rfl
@[simp] theorem State.finish_csrData : (s.finish).csrData = s.csrData := rfl
@[simp] theorem State.finish_bmemData : (s.finish).bmemData = s.bmemData := rfl
@[simp] theorem State.finish_freeCtr : (s.finish).freeCtr = s.freeCtr := rfl

/-! ### `raise` -/

@[simp] theorem State.raise_params (e : ErrorKind) (w : Cmd) : (s.raise e w).params = s.params := rfl
@[simp] theorem State.raise_slots (e : ErrorKind) (w : Cmd) : (s.raise e w).slots = s.slots := rfl
@[simp] theorem State.raise_acc (e : ErrorKind) (w : Cmd) : (s.raise e w).acc = s.acc := rfl
@[simp] theorem State.raise_accValid (e : ErrorKind) (w : Cmd) : (s.raise e w).accValid = s.accValid := rfl
@[simp] theorem State.raise_amat (e : ErrorKind) (w : Cmd) : (s.raise e w).amat = s.amat := rfl
@[simp] theorem State.raise_aValid (e : ErrorKind) (w : Cmd) : (s.raise e w).aValid = s.aValid := rfl
@[simp] theorem State.raise_bmem (e : ErrorKind) (w : Cmd) : (s.raise e w).bmem = s.bmem := rfl
@[simp] theorem State.raise_xs (e : ErrorKind) (w : Cmd) : (s.raise e w).xs = s.xs := rfl
@[simp] theorem State.raise_phase (e : ErrorKind) (w : Cmd) : (s.raise e w).phase = .error := rfl
@[simp] theorem State.raise_cfgValid (e : ErrorKind) (w : Cmd) : (s.raise e w).cfgValid = s.cfgValid := rfl
@[simp] theorem State.raise_errCode (e : ErrorKind) (w : Cmd) : (s.raise e w).errCode = e.code := rfl
@[simp] theorem State.raise_errInfo (e : ErrorKind) (w : Cmd) : (s.raise e w).errInfo = w.setWidth 32 := rfl
@[simp] theorem State.raise_cmdCnt (e : ErrorKind) (w : Cmd) : (s.raise e w).cmdCnt = s.cmdCnt := rfl
@[simp] theorem State.raise_cfg0 (e : ErrorKind) (w : Cmd) : (s.raise e w).cfg0 = s.cfg0 := rfl
@[simp] theorem State.raise_sigma0 (e : ErrorKind) (w : Cmd) : (s.raise e w).sigma0 = s.sigma0 := rfl
@[simp] theorem State.raise_sigma1 (e : ErrorKind) (w : Cmd) : (s.raise e w).sigma1 = s.sigma1 := rfl
@[simp] theorem State.raise_inLen (e : ErrorKind) (w : Cmd) : (s.raise e w).inLen = s.inLen := rfl
@[simp] theorem State.raise_args (e : ErrorKind) (w : Cmd) : (s.raise e w).args = s.args := rfl
@[simp] theorem State.raise_flight (e : ErrorKind) (w : Cmd) : (s.raise e w).flight = none := rfl
@[simp] theorem State.raise_port (e : ErrorKind) (w : Cmd) : (s.raise e w).port = s.port := rfl
@[simp] theorem State.raise_csrData (e : ErrorKind) (w : Cmd) : (s.raise e w).csrData = s.csrData := rfl
@[simp] theorem State.raise_bmemData (e : ErrorKind) (w : Cmd) : (s.raise e w).bmemData = s.bmemData := rfl
@[simp] theorem State.raise_freeCtr (e : ErrorKind) (w : Cmd) : (s.raise e w).freeCtr = s.freeCtr := rfl

/-! ### `clearError` -/

@[simp] theorem State.clearError_params : (s.clearError).params = s.params := rfl
@[simp] theorem State.clearError_slots : (s.clearError).slots = s.slots := rfl
@[simp] theorem State.clearError_acc : (s.clearError).acc = s.acc := rfl
@[simp] theorem State.clearError_accValid : (s.clearError).accValid = s.accValid := rfl
@[simp] theorem State.clearError_amat : (s.clearError).amat = s.amat := rfl
@[simp] theorem State.clearError_aValid : (s.clearError).aValid = s.aValid := rfl
@[simp] theorem State.clearError_bmem : (s.clearError).bmem = s.bmem := rfl
@[simp] theorem State.clearError_xs : (s.clearError).xs = s.xs := rfl
@[simp] theorem State.clearError_phase : (s.clearError).phase = s.phase := rfl
@[simp] theorem State.clearError_cfgValid : (s.clearError).cfgValid = s.cfgValid := rfl
@[simp] theorem State.clearError_errCode : (s.clearError).errCode = 0 := rfl
@[simp] theorem State.clearError_errInfo : (s.clearError).errInfo = 0 := rfl
@[simp] theorem State.clearError_cmdCnt : (s.clearError).cmdCnt = s.cmdCnt := rfl
@[simp] theorem State.clearError_cfg0 : (s.clearError).cfg0 = s.cfg0 := rfl
@[simp] theorem State.clearError_sigma0 : (s.clearError).sigma0 = s.sigma0 := rfl
@[simp] theorem State.clearError_sigma1 : (s.clearError).sigma1 = s.sigma1 := rfl
@[simp] theorem State.clearError_inLen : (s.clearError).inLen = s.inLen := rfl
@[simp] theorem State.clearError_args : (s.clearError).args = s.args := rfl
@[simp] theorem State.clearError_flight : (s.clearError).flight = s.flight := rfl
@[simp] theorem State.clearError_port : (s.clearError).port = s.port := rfl
@[simp] theorem State.clearError_csrData : (s.clearError).csrData = s.csrData := rfl
@[simp] theorem State.clearError_bmemData : (s.clearError).bmemData = s.bmemData := rfl
@[simp] theorem State.clearError_freeCtr : (s.clearError).freeCtr = s.freeCtr := rfl

/-! ### `keepRunning` -/

@[simp] theorem State.keepRunning_params (i : Instr) : (s.keepRunning i).params = s.params := rfl
@[simp] theorem State.keepRunning_slots (i : Instr) : (s.keepRunning i).slots = s.slots := rfl
@[simp] theorem State.keepRunning_acc (i : Instr) : (s.keepRunning i).acc = s.acc := rfl
@[simp] theorem State.keepRunning_accValid (i : Instr) : (s.keepRunning i).accValid = s.accValid := rfl
@[simp] theorem State.keepRunning_amat (i : Instr) : (s.keepRunning i).amat = s.amat := rfl
@[simp] theorem State.keepRunning_aValid (i : Instr) : (s.keepRunning i).aValid = s.aValid := rfl
@[simp] theorem State.keepRunning_bmem (i : Instr) : (s.keepRunning i).bmem = s.bmem := rfl
@[simp] theorem State.keepRunning_xs (i : Instr) : (s.keepRunning i).xs = s.xs := rfl
@[simp] theorem State.keepRunning_phase (i : Instr) : (s.keepRunning i).phase = .busy := rfl
@[simp] theorem State.keepRunning_cfgValid (i : Instr) : (s.keepRunning i).cfgValid = s.cfgValid := rfl
@[simp] theorem State.keepRunning_errCode (i : Instr) : (s.keepRunning i).errCode = s.errCode := rfl
@[simp] theorem State.keepRunning_errInfo (i : Instr) : (s.keepRunning i).errInfo = s.errInfo := rfl
@[simp] theorem State.keepRunning_cmdCnt (i : Instr) : (s.keepRunning i).cmdCnt = s.cmdCnt := rfl
@[simp] theorem State.keepRunning_cfg0 (i : Instr) : (s.keepRunning i).cfg0 = s.cfg0 := rfl
@[simp] theorem State.keepRunning_sigma0 (i : Instr) : (s.keepRunning i).sigma0 = s.sigma0 := rfl
@[simp] theorem State.keepRunning_sigma1 (i : Instr) : (s.keepRunning i).sigma1 = s.sigma1 := rfl
@[simp] theorem State.keepRunning_inLen (i : Instr) : (s.keepRunning i).inLen = s.inLen := rfl
@[simp] theorem State.keepRunning_args (i : Instr) : (s.keepRunning i).args = s.args := rfl
@[simp] theorem State.keepRunning_flight (i : Instr) : (s.keepRunning i).flight = some { instr := i, budget := 2 * s.budget } := rfl
@[simp] theorem State.keepRunning_port (i : Instr) : (s.keepRunning i).port = s.port := rfl
@[simp] theorem State.keepRunning_csrData (i : Instr) : (s.keepRunning i).csrData = s.csrData := rfl
@[simp] theorem State.keepRunning_bmemData (i : Instr) : (s.keepRunning i).bmemData = s.bmemData := rfl
@[simp] theorem State.keepRunning_freeCtr (i : Instr) : (s.keepRunning i).freeCtr = s.freeCtr := rfl

/-! ### `accept` -/

@[simp] theorem State.accept_params : (s.accept).params = s.params := rfl
@[simp] theorem State.accept_slots : (s.accept).slots = s.slots := rfl
@[simp] theorem State.accept_acc : (s.accept).acc = s.acc := rfl
@[simp] theorem State.accept_accValid : (s.accept).accValid = s.accValid := rfl
@[simp] theorem State.accept_amat : (s.accept).amat = s.amat := rfl
@[simp] theorem State.accept_aValid : (s.accept).aValid = s.aValid := rfl
@[simp] theorem State.accept_bmem : (s.accept).bmem = s.bmem := rfl
@[simp] theorem State.accept_xs : (s.accept).xs = s.xs := rfl
@[simp] theorem State.accept_phase : (s.accept).phase = .busy := rfl
@[simp] theorem State.accept_cfgValid : (s.accept).cfgValid = s.cfgValid := rfl
@[simp] theorem State.accept_errCode : (s.accept).errCode = s.errCode := rfl
@[simp] theorem State.accept_errInfo : (s.accept).errInfo = s.errInfo := rfl
@[simp] theorem State.accept_cmdCnt : (s.accept).cmdCnt = s.cmdCnt + 1 := rfl
@[simp] theorem State.accept_cfg0 : (s.accept).cfg0 = s.cfg0 := rfl
@[simp] theorem State.accept_sigma0 : (s.accept).sigma0 = s.sigma0 := rfl
@[simp] theorem State.accept_sigma1 : (s.accept).sigma1 = s.sigma1 := rfl
@[simp] theorem State.accept_inLen : (s.accept).inLen = s.inLen := rfl
@[simp] theorem State.accept_args : (s.accept).args = s.args := rfl
@[simp] theorem State.accept_flight : (s.accept).flight = none := rfl
@[simp] theorem State.accept_port : (s.accept).port = s.port := rfl
@[simp] theorem State.accept_csrData : (s.accept).csrData = s.csrData := rfl
@[simp] theorem State.accept_bmemData : (s.accept).bmemData = s.bmemData := rfl
@[simp] theorem State.accept_freeCtr : (s.accept).freeCtr = s.freeCtr := rfl

/-! ### `setSlot` -/

@[simp] theorem State.setSlot_params (n : BitVec 8) (t : Tag) (v : List Nat) : (s.setSlot n t v).params = s.params := rfl
@[simp] theorem State.setSlot_slots (n : BitVec 8) (t : Tag) (v : List Nat) : (s.setSlot n t v).slots = s.slots.set n.toNat { tag := t, c := cellsOf v } := rfl
@[simp] theorem State.setSlot_acc (n : BitVec 8) (t : Tag) (v : List Nat) : (s.setSlot n t v).acc = s.acc := rfl
@[simp] theorem State.setSlot_accValid (n : BitVec 8) (t : Tag) (v : List Nat) : (s.setSlot n t v).accValid = s.accValid := rfl
@[simp] theorem State.setSlot_amat (n : BitVec 8) (t : Tag) (v : List Nat) : (s.setSlot n t v).amat = s.amat := rfl
@[simp] theorem State.setSlot_aValid (n : BitVec 8) (t : Tag) (v : List Nat) : (s.setSlot n t v).aValid = s.aValid := rfl
@[simp] theorem State.setSlot_bmem (n : BitVec 8) (t : Tag) (v : List Nat) : (s.setSlot n t v).bmem = s.bmem := rfl
@[simp] theorem State.setSlot_xs (n : BitVec 8) (t : Tag) (v : List Nat) : (s.setSlot n t v).xs = s.xs := rfl
@[simp] theorem State.setSlot_phase (n : BitVec 8) (t : Tag) (v : List Nat) : (s.setSlot n t v).phase = s.phase := rfl
@[simp] theorem State.setSlot_cfgValid (n : BitVec 8) (t : Tag) (v : List Nat) : (s.setSlot n t v).cfgValid = s.cfgValid := rfl
@[simp] theorem State.setSlot_errCode (n : BitVec 8) (t : Tag) (v : List Nat) : (s.setSlot n t v).errCode = s.errCode := rfl
@[simp] theorem State.setSlot_errInfo (n : BitVec 8) (t : Tag) (v : List Nat) : (s.setSlot n t v).errInfo = s.errInfo := rfl
@[simp] theorem State.setSlot_cmdCnt (n : BitVec 8) (t : Tag) (v : List Nat) : (s.setSlot n t v).cmdCnt = s.cmdCnt := rfl
@[simp] theorem State.setSlot_cfg0 (n : BitVec 8) (t : Tag) (v : List Nat) : (s.setSlot n t v).cfg0 = s.cfg0 := rfl
@[simp] theorem State.setSlot_sigma0 (n : BitVec 8) (t : Tag) (v : List Nat) : (s.setSlot n t v).sigma0 = s.sigma0 := rfl
@[simp] theorem State.setSlot_sigma1 (n : BitVec 8) (t : Tag) (v : List Nat) : (s.setSlot n t v).sigma1 = s.sigma1 := rfl
@[simp] theorem State.setSlot_inLen (n : BitVec 8) (t : Tag) (v : List Nat) : (s.setSlot n t v).inLen = s.inLen := rfl
@[simp] theorem State.setSlot_args (n : BitVec 8) (t : Tag) (v : List Nat) : (s.setSlot n t v).args = s.args := rfl
@[simp] theorem State.setSlot_flight (n : BitVec 8) (t : Tag) (v : List Nat) : (s.setSlot n t v).flight = s.flight := rfl
@[simp] theorem State.setSlot_port (n : BitVec 8) (t : Tag) (v : List Nat) : (s.setSlot n t v).port = s.port := rfl
@[simp] theorem State.setSlot_csrData (n : BitVec 8) (t : Tag) (v : List Nat) : (s.setSlot n t v).csrData = s.csrData := rfl
@[simp] theorem State.setSlot_bmemData (n : BitVec 8) (t : Tag) (v : List Nat) : (s.setSlot n t v).bmemData = s.bmemData := rfl
@[simp] theorem State.setSlot_freeCtr (n : BitVec 8) (t : Tag) (v : List Nat) : (s.setSlot n t v).freeCtr = s.freeCtr := rfl

/-! ### `setStream` -/

@[simp] theorem State.setStream_params (k : BitVec 2) (x : StreamCtx) : (s.setStream k x).params = s.params := rfl
@[simp] theorem State.setStream_slots (k : BitVec 2) (x : StreamCtx) : (s.setStream k x).slots = s.slots := rfl
@[simp] theorem State.setStream_acc (k : BitVec 2) (x : StreamCtx) : (s.setStream k x).acc = s.acc := rfl
@[simp] theorem State.setStream_accValid (k : BitVec 2) (x : StreamCtx) : (s.setStream k x).accValid = s.accValid := rfl
@[simp] theorem State.setStream_amat (k : BitVec 2) (x : StreamCtx) : (s.setStream k x).amat = s.amat := rfl
@[simp] theorem State.setStream_aValid (k : BitVec 2) (x : StreamCtx) : (s.setStream k x).aValid = s.aValid := rfl
@[simp] theorem State.setStream_bmem (k : BitVec 2) (x : StreamCtx) : (s.setStream k x).bmem = s.bmem := rfl
@[simp] theorem State.setStream_xs (k : BitVec 2) (x : StreamCtx) : (s.setStream k x).xs = s.xs.set k.toNat x k.isLt := rfl
@[simp] theorem State.setStream_phase (k : BitVec 2) (x : StreamCtx) : (s.setStream k x).phase = s.phase := rfl
@[simp] theorem State.setStream_cfgValid (k : BitVec 2) (x : StreamCtx) : (s.setStream k x).cfgValid = s.cfgValid := rfl
@[simp] theorem State.setStream_errCode (k : BitVec 2) (x : StreamCtx) : (s.setStream k x).errCode = s.errCode := rfl
@[simp] theorem State.setStream_errInfo (k : BitVec 2) (x : StreamCtx) : (s.setStream k x).errInfo = s.errInfo := rfl
@[simp] theorem State.setStream_cmdCnt (k : BitVec 2) (x : StreamCtx) : (s.setStream k x).cmdCnt = s.cmdCnt := rfl
@[simp] theorem State.setStream_cfg0 (k : BitVec 2) (x : StreamCtx) : (s.setStream k x).cfg0 = s.cfg0 := rfl
@[simp] theorem State.setStream_sigma0 (k : BitVec 2) (x : StreamCtx) : (s.setStream k x).sigma0 = s.sigma0 := rfl
@[simp] theorem State.setStream_sigma1 (k : BitVec 2) (x : StreamCtx) : (s.setStream k x).sigma1 = s.sigma1 := rfl
@[simp] theorem State.setStream_inLen (k : BitVec 2) (x : StreamCtx) : (s.setStream k x).inLen = s.inLen := rfl
@[simp] theorem State.setStream_args (k : BitVec 2) (x : StreamCtx) : (s.setStream k x).args = s.args := rfl
@[simp] theorem State.setStream_flight (k : BitVec 2) (x : StreamCtx) : (s.setStream k x).flight = s.flight := rfl
@[simp] theorem State.setStream_port (k : BitVec 2) (x : StreamCtx) : (s.setStream k x).port = s.port := rfl
@[simp] theorem State.setStream_csrData (k : BitVec 2) (x : StreamCtx) : (s.setStream k x).csrData = s.csrData := rfl
@[simp] theorem State.setStream_bmemData (k : BitVec 2) (x : StreamCtx) : (s.setStream k x).bmemData = s.bmemData := rfl
@[simp] theorem State.setStream_freeCtr (k : BitVec 2) (x : StreamCtx) : (s.setStream k x).freeCtr = s.freeCtr := rfl

/-! ### `seek` -/

@[simp] theorem State.seek_params (k : BitVec 2) (pos : Nat) : (s.seek k pos).params = s.params := rfl
@[simp] theorem State.seek_slots (k : BitVec 2) (pos : Nat) : (s.seek k pos).slots = s.slots := rfl
@[simp] theorem State.seek_acc (k : BitVec 2) (pos : Nat) : (s.seek k pos).acc = s.acc := rfl
@[simp] theorem State.seek_accValid (k : BitVec 2) (pos : Nat) : (s.seek k pos).accValid = s.accValid := rfl
@[simp] theorem State.seek_amat (k : BitVec 2) (pos : Nat) : (s.seek k pos).amat = s.amat := rfl
@[simp] theorem State.seek_aValid (k : BitVec 2) (pos : Nat) : (s.seek k pos).aValid = s.aValid := rfl
@[simp] theorem State.seek_bmem (k : BitVec 2) (pos : Nat) : (s.seek k pos).bmem = s.bmem := rfl
@[simp] theorem State.seek_xs (k : BitVec 2) (pos : Nat) : (s.seek k pos).xs = (s.setStream k { s.stream k with pos := pos }).xs := rfl
@[simp] theorem State.seek_phase (k : BitVec 2) (pos : Nat) : (s.seek k pos).phase = s.phase := rfl
@[simp] theorem State.seek_cfgValid (k : BitVec 2) (pos : Nat) : (s.seek k pos).cfgValid = s.cfgValid := rfl
@[simp] theorem State.seek_errCode (k : BitVec 2) (pos : Nat) : (s.seek k pos).errCode = s.errCode := rfl
@[simp] theorem State.seek_errInfo (k : BitVec 2) (pos : Nat) : (s.seek k pos).errInfo = s.errInfo := rfl
@[simp] theorem State.seek_cmdCnt (k : BitVec 2) (pos : Nat) : (s.seek k pos).cmdCnt = s.cmdCnt := rfl
@[simp] theorem State.seek_cfg0 (k : BitVec 2) (pos : Nat) : (s.seek k pos).cfg0 = s.cfg0 := rfl
@[simp] theorem State.seek_sigma0 (k : BitVec 2) (pos : Nat) : (s.seek k pos).sigma0 = s.sigma0 := rfl
@[simp] theorem State.seek_sigma1 (k : BitVec 2) (pos : Nat) : (s.seek k pos).sigma1 = s.sigma1 := rfl
@[simp] theorem State.seek_inLen (k : BitVec 2) (pos : Nat) : (s.seek k pos).inLen = s.inLen := rfl
@[simp] theorem State.seek_args (k : BitVec 2) (pos : Nat) : (s.seek k pos).args = s.args := rfl
@[simp] theorem State.seek_flight (k : BitVec 2) (pos : Nat) : (s.seek k pos).flight = s.flight := rfl
@[simp] theorem State.seek_port (k : BitVec 2) (pos : Nat) : (s.seek k pos).port = s.port := rfl
@[simp] theorem State.seek_csrData (k : BitVec 2) (pos : Nat) : (s.seek k pos).csrData = s.csrData := rfl
@[simp] theorem State.seek_bmemData (k : BitVec 2) (pos : Nat) : (s.seek k pos).bmemData = s.bmemData := rfl
@[simp] theorem State.seek_freeCtr (k : BitVec 2) (pos : Nat) : (s.seek k pos).freeCtr = s.freeCtr := rfl

/-! ### `clearScratch` -/

@[simp] theorem State.clearScratch_params : (s.clearScratch).params = s.params := rfl
@[simp] theorem State.clearScratch_slots : (s.clearScratch).slots = s.slots.map fun x => { x with tag := .empty } := rfl
@[simp] theorem State.clearScratch_acc : (s.clearScratch).acc = s.acc := rfl
@[simp] theorem State.clearScratch_accValid : (s.clearScratch).accValid = false := rfl
@[simp] theorem State.clearScratch_amat : (s.clearScratch).amat = s.amat := rfl
@[simp] theorem State.clearScratch_aValid : (s.clearScratch).aValid = s.aValid := rfl
@[simp] theorem State.clearScratch_bmem : (s.clearScratch).bmem = s.bmem := rfl
@[simp] theorem State.clearScratch_xs : (s.clearScratch).xs = s.xs.map fun x => { x with valid := false } := rfl
@[simp] theorem State.clearScratch_phase : (s.clearScratch).phase = s.phase := rfl
@[simp] theorem State.clearScratch_cfgValid : (s.clearScratch).cfgValid = s.cfgValid := rfl
@[simp] theorem State.clearScratch_errCode : (s.clearScratch).errCode = s.errCode := rfl
@[simp] theorem State.clearScratch_errInfo : (s.clearScratch).errInfo = s.errInfo := rfl
@[simp] theorem State.clearScratch_cmdCnt : (s.clearScratch).cmdCnt = s.cmdCnt := rfl
@[simp] theorem State.clearScratch_cfg0 : (s.clearScratch).cfg0 = s.cfg0 := rfl
@[simp] theorem State.clearScratch_sigma0 : (s.clearScratch).sigma0 = s.sigma0 := rfl
@[simp] theorem State.clearScratch_sigma1 : (s.clearScratch).sigma1 = s.sigma1 := rfl
@[simp] theorem State.clearScratch_inLen : (s.clearScratch).inLen = s.inLen := rfl
@[simp] theorem State.clearScratch_args : (s.clearScratch).args = s.args := rfl
@[simp] theorem State.clearScratch_flight : (s.clearScratch).flight = s.flight := rfl
@[simp] theorem State.clearScratch_port : (s.clearScratch).port = s.port := rfl
@[simp] theorem State.clearScratch_csrData : (s.clearScratch).csrData = s.csrData := rfl
@[simp] theorem State.clearScratch_bmemData : (s.clearScratch).bmemData = s.bmemData := rfl
@[simp] theorem State.clearScratch_freeCtr : (s.clearScratch).freeCtr = s.freeCtr := rfl

/-! ### `endSession` -/

@[simp] theorem State.endSession_params : (s.endSession).params = s.params := rfl
@[simp] theorem State.endSession_slots : (s.endSession).slots = s.slots := rfl
@[simp] theorem State.endSession_acc : (s.endSession).acc = s.acc := rfl
@[simp] theorem State.endSession_accValid : (s.endSession).accValid = s.accValid := rfl
@[simp] theorem State.endSession_amat : (s.endSession).amat = s.amat := rfl
@[simp] theorem State.endSession_aValid : (s.endSession).aValid = false := rfl
@[simp] theorem State.endSession_bmem : (s.endSession).bmem = s.bmem := rfl
@[simp] theorem State.endSession_xs : (s.endSession).xs = s.xs := rfl
@[simp] theorem State.endSession_phase : (s.endSession).phase = s.phase := rfl
@[simp] theorem State.endSession_cfgValid : (s.endSession).cfgValid = false := rfl
@[simp] theorem State.endSession_errCode : (s.endSession).errCode = s.errCode := rfl
@[simp] theorem State.endSession_errInfo : (s.endSession).errInfo = s.errInfo := rfl
@[simp] theorem State.endSession_cmdCnt : (s.endSession).cmdCnt = s.cmdCnt := rfl
@[simp] theorem State.endSession_cfg0 : (s.endSession).cfg0 = s.cfg0 := rfl
@[simp] theorem State.endSession_sigma0 : (s.endSession).sigma0 = s.sigma0 := rfl
@[simp] theorem State.endSession_sigma1 : (s.endSession).sigma1 = s.sigma1 := rfl
@[simp] theorem State.endSession_inLen : (s.endSession).inLen = s.inLen := rfl
@[simp] theorem State.endSession_args : (s.endSession).args = s.args := rfl
@[simp] theorem State.endSession_flight : (s.endSession).flight = s.flight := rfl
@[simp] theorem State.endSession_port : (s.endSession).port = s.port := rfl
@[simp] theorem State.endSession_csrData : (s.endSession).csrData = s.csrData := rfl
@[simp] theorem State.endSession_bmemData : (s.endSession).bmemData = s.bmemData := rfl
@[simp] theorem State.endSession_freeCtr : (s.endSession).freeCtr = s.freeCtr := rfl

/-! ### `output` -/

@[simp] theorem State.output_params (outs : List (Nat × List Byte)) : (s.output outs).params = s.params := rfl
@[simp] theorem State.output_slots (outs : List (Nat × List Byte)) : (s.output outs).slots = s.slots := rfl
@[simp] theorem State.output_acc (outs : List (Nat × List Byte)) : (s.output outs).acc = s.acc := rfl
@[simp] theorem State.output_accValid (outs : List (Nat × List Byte)) : (s.output outs).accValid = s.accValid := rfl
@[simp] theorem State.output_amat (outs : List (Nat × List Byte)) : (s.output outs).amat = s.amat := rfl
@[simp] theorem State.output_aValid (outs : List (Nat × List Byte)) : (s.output outs).aValid = s.aValid := rfl
@[simp] theorem State.output_bmem (outs : List (Nat × List Byte)) : (s.output outs).bmem = outs.foldl (fun m x => Memory.writeBytes m x.1 x.2) s.bmem := rfl
@[simp] theorem State.output_xs (outs : List (Nat × List Byte)) : (s.output outs).xs = s.xs := rfl
@[simp] theorem State.output_phase (outs : List (Nat × List Byte)) : (s.output outs).phase = s.phase := rfl
@[simp] theorem State.output_cfgValid (outs : List (Nat × List Byte)) : (s.output outs).cfgValid = s.cfgValid := rfl
@[simp] theorem State.output_errCode (outs : List (Nat × List Byte)) : (s.output outs).errCode = s.errCode := rfl
@[simp] theorem State.output_errInfo (outs : List (Nat × List Byte)) : (s.output outs).errInfo = s.errInfo := rfl
@[simp] theorem State.output_cmdCnt (outs : List (Nat × List Byte)) : (s.output outs).cmdCnt = s.cmdCnt := rfl
@[simp] theorem State.output_cfg0 (outs : List (Nat × List Byte)) : (s.output outs).cfg0 = s.cfg0 := rfl
@[simp] theorem State.output_sigma0 (outs : List (Nat × List Byte)) : (s.output outs).sigma0 = s.sigma0 := rfl
@[simp] theorem State.output_sigma1 (outs : List (Nat × List Byte)) : (s.output outs).sigma1 = s.sigma1 := rfl
@[simp] theorem State.output_inLen (outs : List (Nat × List Byte)) : (s.output outs).inLen = s.inLen := rfl
@[simp] theorem State.output_args (outs : List (Nat × List Byte)) : (s.output outs).args = s.args := rfl
@[simp] theorem State.output_flight (outs : List (Nat × List Byte)) : (s.output outs).flight = s.flight := rfl
@[simp] theorem State.output_port (outs : List (Nat × List Byte)) : (s.output outs).port = s.port := rfl
@[simp] theorem State.output_csrData (outs : List (Nat × List Byte)) : (s.output outs).csrData = s.csrData := rfl
@[simp] theorem State.output_bmemData (outs : List (Nat × List Byte)) : (s.output outs).bmemData = s.bmemData := rfl
@[simp] theorem State.output_freeCtr (outs : List (Nat × List Byte)) : (s.output outs).freeCtr = s.freeCtr := rfl

/-! ### `present` -/

@[simp] theorem State.present_params (w : Cmd) : (s.present w).params = s.params := rfl
@[simp] theorem State.present_slots (w : Cmd) : (s.present w).slots = s.slots := rfl
@[simp] theorem State.present_acc (w : Cmd) : (s.present w).acc = s.acc := rfl
@[simp] theorem State.present_accValid (w : Cmd) : (s.present w).accValid = s.accValid := rfl
@[simp] theorem State.present_amat (w : Cmd) : (s.present w).amat = s.amat := rfl
@[simp] theorem State.present_aValid (w : Cmd) : (s.present w).aValid = s.aValid := rfl
@[simp] theorem State.present_bmem (w : Cmd) : (s.present w).bmem = s.bmem := rfl
@[simp] theorem State.present_xs (w : Cmd) : (s.present w).xs = s.xs := rfl
@[simp] theorem State.present_phase (w : Cmd) : (s.present w).phase = s.phase := rfl
@[simp] theorem State.present_cfgValid (w : Cmd) : (s.present w).cfgValid = s.cfgValid := rfl
@[simp] theorem State.present_errCode (w : Cmd) : (s.present w).errCode = s.errCode := rfl
@[simp] theorem State.present_errInfo (w : Cmd) : (s.present w).errInfo = s.errInfo := rfl
@[simp] theorem State.present_cmdCnt (w : Cmd) : (s.present w).cmdCnt = s.cmdCnt := rfl
@[simp] theorem State.present_cfg0 (w : Cmd) : (s.present w).cfg0 = s.cfg0 := rfl
@[simp] theorem State.present_sigma0 (w : Cmd) : (s.present w).sigma0 = s.sigma0 := rfl
@[simp] theorem State.present_sigma1 (w : Cmd) : (s.present w).sigma1 = s.sigma1 := rfl
@[simp] theorem State.present_inLen (w : Cmd) : (s.present w).inLen = s.inLen := rfl
@[simp] theorem State.present_args (w : Cmd) : (s.present w).args = s.args := rfl
@[simp] theorem State.present_flight (w : Cmd) : (s.present w).flight = s.flight := rfl
@[simp] theorem State.present_port (w : Cmd) : (s.present w).port = .command w :: s.port := rfl
@[simp] theorem State.present_csrData (w : Cmd) : (s.present w).csrData = s.csrData := rfl
@[simp] theorem State.present_bmemData (w : Cmd) : (s.present w).bmemData = s.bmemData := rfl
@[simp] theorem State.present_freeCtr (w : Cmd) : (s.present w).freeCtr = s.freeCtr := rfl

end

theorem Slot.blank_tag (p : Params) : (Slot.blank p).tag = .empty := rfl

end Sys2Proof.Machine
end

