-- ==== Sys2Proof/Laws/Ops.lean ====
section
/-! SUPPORT. Each shared operation, said once: a check, the run of a command, the slot operations, the
opening of a stream, the end of a sampling command. Later proofs cite these and do not unfold them. -/

namespace Sys2Proof.Machine

/-! ### Checks -/

theorem require_of {c : Prop} [Decidable c] (h : c) (e : ErrorKind) (k : Result) : require c e k = k := if_pos h

theorem require_of_not {c : Prop} [Decidable c] (h : ¬c) (e : ErrorKind) (k : Result) :
    require c e k = .fail e := if_neg h

theorem require_eq_done {c : Prop} [Decidable c] {e : ErrorKind} {k : Result} {t : State} :
    require c e k = .done t ↔ c ∧ k = .done t := by
  unfold require; split <;> simp_all

theorem require_eq_fail {c : Prop} [Decidable c] {e e' : ErrorKind} {k : Result} :
    require c e k = .fail e' ↔ (c ∧ k = .fail e') ∨ (¬c ∧ e = e') := by
  unfold require; split <;> simp_all

theorem require_eq_running {c : Prop} [Decidable c] {e : ErrorKind} {k : Result} :
    require c e k = .running ↔ c ∧ k = .running := by
  unfold require; split <;> simp_all

theorem requireConfig_eq_done {s : State} {k : Result} {t : State} :
    requireConfig s k = .done t ↔ s.cfgValid = true ∧ k = .done t := require_eq_done

theorem requireFull_eq_done {s : State} {n : BitVec 8} {k : Result} {t : State} :
    requireFull s n k = .done t ↔ (s.slot n).tag ≠ .empty ∧ k = .done t := require_eq_done

theorem requireStream_eq_done {s : State} {x : BitVec 2} {k : Result} {t : State} :
    requireStream s x k = .done t ↔ (s.stream x).valid = true ∧ k = .done t := require_eq_done

theorem requireRange_eq_done {s : State} {a n : Nat} {k : Result} {t : State} :
    requireRange s a n k = .done t ↔ inBmem s.params a n ∧ k = .done t := require_eq_done

theorem requireSeed_eq_done {s : State} {k : Result} {t : State} :
    requireSeed s k = .done t ↔ s.cfgValid = true ∧ s.arg 1 ≤ 250 ∧ k = .done t := by
  simp only [requireSeed, requireConfig_eq_done, require_eq_done]

theorem requireMatrix_eq_done {s : State} {k : Result} {t : State} :
    requireMatrix s k = .done t ↔ s.aValid = true ∧ k = .done t := require_eq_done

/-! ### The run of a command -/

/-- What the run of a command can answer: its own effect, an error, another attempt, or the error of the
static checks. -/
theorem runCommand_cases {i : Instr} {prep : State → State} {body : State → Result} {s t : State}
    (h : runCommand i prep body s = .next t) :
    (i.wellFormed s.params = true ∧
      ((∃ u, body (prep s) = .done u ∧ t = u.finish) ∨
        (∃ e, body (prep s) = .fail e ∧ t = (prep s).raise e (encode i)) ∨
        (body (prep s) = .running ∧ t = s.keepRunning i))) ∨
    (i.wellFormed s.params = false ∧ t = s.raise .illegalCommand (encode i)) := by
  unfold runCommand at h
  split at h
  · rename_i hw
    refine .inl ⟨hw, ?_⟩
    split at h <;> cases h <;> simp_all
  · rename_i hw
    cases h
    exact .inr ⟨by simpa using hw, rfl⟩

/-- The run of a command always answers a next state. -/
theorem runCommand_isNext (i : Instr) (prep : State → State) (body : State → Result) (s : State) :
    ∃ t, runCommand i prep body s = .next t := by
  unfold runCommand
  split
  · split <;> exact ⟨_, rfl⟩
  · exact ⟨_, rfl⟩

theorem runCommand_done {i : Instr} {prep : State → State} {body : State → Result} {s u : State}
    (hw : i.wellFormed s.params = true) (h : body (prep s) = .done u) :
    runCommand i prep body s = .next u.finish := by
  simp [runCommand, hw, h]

theorem runCommand_fail {i : Instr} {prep : State → State} {body : State → Result} {s : State} {e : ErrorKind}
    (hw : i.wellFormed s.params = true) (h : body (prep s) = .fail e) :
    runCommand i prep body s = .next ((prep s).raise e (encode i)) := by
  simp [runCommand, hw, h]

theorem runCommand_running {i : Instr} {prep : State → State} {body : State → Result} {s : State}
    (hw : i.wellFormed s.params = true) (h : body (prep s) = .running) :
    runCommand i prep body s = .next (s.keepRunning i) := by
  simp [runCommand, hw, h]

theorem runCommand_illegal {i : Instr} {prep : State → State} {body : State → Result} {s : State}
    (hw : i.wellFormed s.params = false) :
    runCommand i prep body s = .next (s.raise .illegalCommand (encode i)) := by
  simp [runCommand, hw]

/-! ### The slot operations -/

theorem unarySlot_eq_done {pd pa : BitVec 8} {accepts : Tag → Bool} {result : Tag → List Nat → Tag × List Nat}
    {s t : State} :
    unarySlot pd pa accepts result s = .done t ↔
      (s.slot pa).tag ≠ .empty ∧ accepts (s.slot pa).tag = true ∧
        s.setSlot pd (result (s.slot pa).tag (s.coeffs pa)).1 (result (s.slot pa).tag (s.coeffs pa)).2 = t := by
  simp only [unarySlot, requireFull_eq_done, require_eq_done, Result.done.injEq]

theorem binarySlot_eq_done {pd pa pb : BitVec 8} {accepts : Tag → Tag → Bool} {tag : Tag}
    {result : List Nat → List Nat → List Nat} {s t : State} :
    binarySlot pd pa pb accepts tag result s = .done t ↔
      (s.slot pa).tag ≠ .empty ∧ (s.slot pb).tag ≠ .empty ∧ accepts (s.slot pa).tag (s.slot pb).tag = true ∧
        s.setSlot pd tag (result (s.coeffs pa) (s.coeffs pb)) = t := by
  simp only [binarySlot, requireFull_eq_done, require_eq_done, Result.done.injEq]

/-! ### Streams -/

theorem openStream_eq_done {kind : XofKind} {xs : BitVec 2} {len addr : Nat} {s t : State} :
    openStream kind xs len addr s = .done t ↔
      inBmem s.params addr len ∧
        s.setStream xs { valid := true, kind := kind, seed := Memory.readBytes s.bmem addr len, pos := 0 } = t := by
  simp only [openStream, requireRange_eq_done, Result.done.injEq]

theorem sampled_eq_done {α : Type} {xs : BitVec 2} {r : Option (α × Nat)} {effect : α → State → State} {s t : State} :
    sampled xs r effect s = .done t ↔ ∃ x pos, r = some (x, pos) ∧ effect x (s.seek xs pos) = t := by
  cases r with
  | none => simp [sampled]
  | some r => obtain ⟨x, pos⟩ := r; simp [sampled]

theorem stream_setStream (s : State) (k : BitVec 2) (x : StreamCtx) : (s.setStream k x).stream k = x := by
  simp [State.stream]

theorem stream_setStream_other (s : State) {k k' : BitVec 2} (h : k ≠ k') (x : StreamCtx) :
    (s.setStream k x).stream k' = s.stream k' := by
  simp [State.stream, BitVec.toNat_inj, h]

/-! ### Slots -/

theorem slot_setSlot (s : State) {n : BitVec 8} (h : n.toNat < s.slots.length) (t : Tag) (v : List Nat) :
    (s.setSlot n t v).slot n = { tag := t, c := cellsOf v } := by
  simp [State.slot, h]

theorem slot_setSlot_other (s : State) {n n' : BitVec 8} (h : n ≠ n') (t : Tag) (v : List Nat) :
    (s.setSlot n t v).slot n' = s.slot n' := by
  simp [State.slot, BitVec.toNat_inj, h]

/-! ### The protocol commands see the same inputs after scratch clearing -/

@[simp] theorem clearScratch_setting (s : State) : s.clearScratch.setting = s.setting := rfl
@[simp] theorem clearScratch_matrix (s : State) : s.clearScratch.matrix = s.matrix := rfl
@[simp] theorem clearScratch_seed (s : State) : s.clearScratch.seed = s.seed := rfl
@[simp] theorem clearScratch_pkOf (s : State) : s.clearScratch.pkOf = s.pkOf := rfl
@[simp] theorem clearScratch_msgOf (s : State) : s.clearScratch.msgOf = s.msgOf := rfl
@[simp] theorem clearScratch_arg (s : State) (k : Fin 12) : s.clearScratch.arg k = s.arg k := rfl
@[simp] theorem clearScratch_pksOk (s : State) (nr : Nat) : s.clearScratch.pksOk nr = s.pksOk nr := rfl
@[simp] theorem clearScratch_skBytes (s : State) : s.clearScratch.skBytes = s.skBytes := rfl
@[simp] theorem clearScratch_sctBytes (s : State) : s.clearScratch.sctBytes = s.sctBytes := rfl
@[simp] theorem clearScratch_cfgLegal (s : State) : s.clearScratch.cfgLegal = s.cfgLegal := rfl
@[simp] theorem clearScratch_newMatrix (s : State) (rows : List (List (List Nat))) :
    s.clearScratch.newMatrix rows = s.newMatrix rows := rfl

end Sys2Proof.Machine
end

