-- ==== Sys2Proof/Laws/PerInstr.lean ====
section
/-! SUPPORT. The family Opcode: the low byte of every encoded command is its opcode (`30_encoding.md` R66),
one lemma per constructor. -/

namespace Sys2Proof.Laws.Opcode

/-- The opcode column of R66. -/
def opcode : Instr → BitVec 8
  | .nop => 0x00
  | .ldcfg => 0x01
  | .clrerr => 0x02
  | .ntt _ _ => 0x10
  | .intt _ _ => 0x11
  | .muln _ _ _ => 0x12
  | .add _ _ _ _ _ => 0x13
  | .sub _ _ _ _ _ => 0x14
  | .scale _ _ _ => 0x15
  | .aclr => 0x16
  | .macs _ _ => 0x17
  | .ared _ _ _ => 0x18
  | .snorm _ _ => 0x19
  | .geta _ _ _ => 0x1A
  | .xinita _ _ _ => 0x20
  | .xinits _ _ _ => 0x21
  | .smpu _ _ _ => 0x22
  | .smpt _ _ => 0x23
  | .smpb _ _ => 0x24
  | .dect _ _ _ => 0x25
  | .decb _ _ _ => 0x26
  | .smpg _ _ _ => 0x27
  | .ser _ _ _ => 0x30
  | .deser _ _ _ _ => 0x31
  | .comp _ _ _ _ _ => 0x32
  | .dcmp _ _ _ _ _ => 0x33
  | .rdbl _ _ _ => 0x34
  | .xrnd _ _ _ _ => 0x35
  | .recn _ _ _ _ _ => 0x36
  | .setup => 0x40
  | .keygen => 0x41
  | .encap => 0x42
  | .enc => 0x43
  | .decap => 0x44
  | .dec => 0x45

/-- The low byte of an encoded command is its opcode. -/
def Statement (i : Instr) : Prop := (encode i).extractLsb' 0 8 = opcode i

theorem nop : Statement (.nop) := wordS_op _
theorem ldcfg : Statement (.ldcfg) := wordS_op _
theorem clrerr : Statement (.clrerr) := wordS_op _
theorem ntt (pd pa : BitVec 8) : Statement (.ntt pd pa) := wordR_op _ _ _ _ _ _ _ _ _ _
theorem intt (pd pa : BitVec 8) : Statement (.intt pd pa) := wordR_op _ _ _ _ _ _ _ _ _ _
theorem muln (pd pa pb : BitVec 8) : Statement (.muln pd pa pb) := wordR_op _ _ _ _ _ _ _ _ _ _
theorem add (pd pa pb : BitVec 8) (msel : BitVec 2) (mbits : BitVec 6) : Statement (.add pd pa pb msel mbits) := wordR_op _ _ _ _ _ _ _ _ _ _
theorem sub (pd pa pb : BitVec 8) (msel : BitVec 2) (mbits : BitVec 6) : Statement (.sub pd pa pb msel mbits) := wordR_op _ _ _ _ _ _ _ _ _ _
theorem scale (pd pa : BitVec 8) (imm32 : BitVec 32) : Statement (.scale pd pa imm32) := wordI_op _ _ _ _
theorem aclr : Statement (.aclr) := wordS_op _
theorem macs (pa pb : BitVec 8) : Statement (.macs pa pb) := wordR_op _ _ _ _ _ _ _ _ _ _
theorem ared (pd : BitVec 8) (msel : BitVec 2) (mbits : BitVec 6) : Statement (.ared pd msel mbits) := wordR_op _ _ _ _ _ _ _ _ _ _
theorem snorm (pd pa : BitVec 8) : Statement (.snorm pd pa) := wordR_op _ _ _ _ _ _ _ _ _ _
theorem geta (pd : BitVec 8) (sub sub2 : BitVec 4) : Statement (.geta pd sub sub2) := wordR_op _ _ _ _ _ _ _ _ _ _
theorem xinita (xs : BitVec 2) (aux8 : BitVec 8) (addr : BitVec 32) : Statement (.xinita xs aux8 addr) := wordM_op _ _ _ _ _ _
theorem xinits (xs : BitVec 2) (aux8 : BitVec 8) (addr : BitVec 32) : Statement (.xinits xs aux8 addr) := wordM_op _ _ _ _ _ _
theorem smpu (pd : BitVec 8) (xs : BitVec 2) (sub : BitVec 4) : Statement (.smpu pd xs sub) := wordR_op _ _ _ _ _ _ _ _ _ _
theorem smpt (xs : BitVec 2) (addr : BitVec 32) : Statement (.smpt xs addr) := wordM_op _ _ _ _ _ _
theorem smpb (xs : BitVec 2) (addr : BitVec 32) : Statement (.smpb xs addr) := wordM_op _ _ _ _ _ _
theorem dect (ps aux8 : BitVec 8) (addr : BitVec 32) : Statement (.dect ps aux8 addr) := wordM_op _ _ _ _ _ _
theorem decb (ps aux8 : BitVec 8) (addr : BitVec 32) : Statement (.decb ps aux8 addr) := wordM_op _ _ _ _ _ _
theorem smpg (pd : BitVec 8) (xs : BitVec 2) (sub : BitVec 4) : Statement (.smpg pd xs sub) := wordR_op _ _ _ _ _ _ _ _ _ _
theorem ser (ps : BitVec 8) (bits : BitVec 6) (addr : BitVec 32) : Statement (.ser ps bits addr) := wordM_op _ _ _ _ _ _
theorem deser (ps : BitVec 8) (bits : BitVec 6) (aux8 : BitVec 8) (addr : BitVec 32) : Statement (.deser ps bits aux8 addr) := wordM_op _ _ _ _ _ _
theorem comp (pd pa : BitVec 8) (bits : BitVec 6) (msel : BitVec 2) (mbits : BitVec 6) : Statement (.comp pd pa bits msel mbits) := wordR_op _ _ _ _ _ _ _ _ _ _
theorem dcmp (pd pa : BitVec 8) (bits : BitVec 6) (msel : BitVec 2) (mbits : BitVec 6) : Statement (.dcmp pd pa bits msel mbits) := wordR_op _ _ _ _ _ _ _ _ _ _
theorem rdbl (pd pa : BitVec 8) (xs : BitVec 2) : Statement (.rdbl pd pa xs) := wordR_op _ _ _ _ _ _ _ _ _ _
theorem xrnd (pd pa : BitVec 8) (msel : BitVec 2) (mbits : BitVec 6) : Statement (.xrnd pd pa msel mbits) := wordR_op _ _ _ _ _ _ _ _ _ _
theorem recn (pd pa pb : BitVec 8) (msel : BitVec 2) (mbits : BitVec 6) : Statement (.recn pd pa pb msel mbits) := wordR_op _ _ _ _ _ _ _ _ _ _
theorem setup : Statement (.setup) := wordS_op _
theorem keygen : Statement (.keygen) := wordS_op _
theorem encap : Statement (.encap) := wordS_op _
theorem enc : Statement (.enc) := wordS_op _
theorem decap : Statement (.decap) := wordS_op _
theorem dec : Statement (.dec) := wordS_op _

end Sys2Proof.Laws.Opcode
end

