-- ==== Sys2Proof/Tests/Slice0.lean ====
section
/-! SUPPORT. Our own tests: the checks of WellFormed refuse ill-formed commands, the decoder reads words written
out from `30_encoding.md`, single steps give what the spec's worked examples say, and for every obligation with
hypotheses a concrete state meets them. Expected values come from spec/ (mostly `95_test_vectors.md`). -/

namespace Sys2Proof.Machine.Tests

open Sys2Proof Sys2Proof.Machine

-- One theorem at a time: many kernel evaluations side by side take more threads than the check allows.
set_option Elab.async false

/-! ### WellFormed (`30_encoding.md` R65) -/

theorem test_slotsOk_refuses : (Instr.ntt 32 0).slotsOk Params.default = false := by decide
theorem test_widthOk_refuses :
    (Instr.ser 0 0 0).widthOk = false ∧ (Instr.deser 0 33 0 0).widthOk = false := by decide
theorem test_modulusOk_refuses :
    (Instr.add 0 0 0 3 0).modulusOk = false ∧ (Instr.ared 0 2 33).modulusOk = false ∧
      (Instr.xrnd 0 0 1 1).modulusOk = false ∧ (Instr.recn 0 0 0 2 0).modulusOk = false := by decide
theorem test_selectorOk_refuses :
    (Instr.smpu 0 0 2).selectorOk = false ∧ (Instr.smpg 0 0 15).selectorOk = false := by decide
theorem test_auxOk_refuses :
    (Instr.deser 0 1 3 0).auxOk = false ∧ (Instr.dect 0 33 0).auxOk = false := by decide
theorem test_wellFormed_boundary :
    (Instr.add 31 31 31 2 32).wellFormed Params.default = true ∧
      (Instr.xinita 3 255 0xFFFFFFFF).wellFormed Params.default = true := by decide

/-! ### Decode: one word for every command, written from R61 to R66 or printed in R70 and
`95_test_vectors.md` section 9 -/

/-- The words and the commands they stand for: system and RingArith. -/
def words1 : List (Cmd × Instr) :=
  [(0x0000000000000000, .nop), (0x0000000000000001, .ldcfg), (0x0000000000000002, .clrerr),
    (0x0000000000000110, .ntt 1 0), (0x0000000000040511, .intt 5 4), (0x0000000001000212, .muln 2 0 1),
    (0x002C008001000213, .add 2 0 1 2 11), (0x0010008004080914, .sub 9 8 4 2 4),
    (0x01FFF00000030315, .scale 3 3 33550336), (0x0000000000000016, .aclr), (0x0000000003020017, .macs 2 3),
    (0x0010008000000418, .ared 4 2 4), (0x0000000000050819, .snorm 8 5), (0x0000C8000000051A, .geta 5 2 3)]

/-- Sampler. -/
def words2 : List (Cmd × Instr) :=
  [(0x000FFFFE04000020, .xinita 0 4 0xFFFFE), (0x0000010008400021, .xinits 1 8 0x100),
    (0x0000060000000422, .smpu 4 2 1), (0x0000023000400023, .smpt 1 0x230), (0x0000023000800024, .smpb 2 0x230),
    (0x0000030204000325, .dect 3 4 0x302), (0x0000001005000326, .decb 3 5 0x10),
    (0x0000020000000327, .smpg 3 2 0)]

/-- Codec and protocol. -/
def words3 : List (Cmd × Instr) :=
  [(0x0000040000190330, .ser 3 25 0x400), (0x0000000001050031, .deser 0 5 1 0),
    (0x0010008100090A32, .comp 10 9 1 2 4), (0x0010008200070833, .dcmp 8 7 2 2 4),
    (0x0000030000070434, .rdbl 4 7 3), (0x0010008000020135, .xrnd 1 2 2 4), (0x002C008003020436, .recn 4 2 3 2 11),
    (0x0000000000000040, .setup), (0x0000000000000041, .keygen), (0x0000000000000042, .encap),
    (0x0000000000000043, .enc), (0x0000000000000044, .decap), (0x0000000000000045, .dec)]

theorem test_decode_words1 : ∀ x ∈ words1, decode Params.default x.1 = .ok x.2 ∧ encode x.2 = x.1 := by decide +kernel
theorem test_decode_words2 : ∀ x ∈ words2, decode Params.default x.1 = .ok x.2 ∧ encode x.2 = x.1 := by decide +kernel
theorem test_decode_words3 : ∀ x ∈ words3, decode Params.default x.1 = .ok x.2 ∧ encode x.2 = x.1 := by decide +kernel

/-- One word for each check of R65, in the order of its items. -/
theorem test_decode_rejects :
    decode Params.default 0x00000000000000FF = .error .unknownOpcode ∧
    decode Params.default 0x0000000100000110 = .error .unusedField ∧
    decode Params.default 0x0000000000000144 = .error .unusedField ∧
    decode Params.default 0x0000000000200110 = .error .slotRange ∧
    decode Params.default 0x0000040000210330 = .error .widthRange ∧
    decode Params.default 0x000000C001000213 = .error .modulusRange ∧
    decode Params.default 0x00000A0000000422 = .error .selectorRange ∧
    decode Params.default 0x0000000003050031 = .error .auxRange := by decide +kernel

theorem test_decodeTableWord : decodeTableWord 64 0x002C008003020436 = some (.recn 4 2 3 2 11) := by decide +kernel

/-! ### The toy instance (`95_test_vectors.md`), with small register files and the stream bytes of its examples -/

/-- A pair of draws that `95_test_vectors.md` V4.6 maps to `(2, -2)` for σ = 2.0. -/
def pair : List Byte := [0, 0, 0, 0, 0, 0, 0, 0x40, 0, 0, 0, 0, 0, 0, 0, 0xC0]

/-- `n` such pairs. -/
def pairs (n : Nat) : List Byte := (List.replicate n pair).flatten

/-- The streams of `XOF128` for the matrix seed `A0 A1 A2 A3` of program P3. -/
def matrixStreams : List (List Byte × List Byte) :=
  [([0xA0, 0xA1, 0xA2, 0xA3, 0, 0, 0x41], [0x6B, 9, 0xA8, 0x46, 0xE4, 0x82, 0x20, 0xBF, 0x5D, 0xFB, 0x99, 0x38,
      0xD6, 0x74, 0x12, 0xB0]),
    ([0xA0, 0xA1, 0xA2, 0xA3, 0, 1, 0x41], [0x20, 0xBF, 0x5D, 0xFB, 0x99, 0x38, 0xD6, 0x74, 0x12, 0xB0, 0x4F, 0xED,
      0x8B, 0x29, 0xC7, 0x66, 4, 0xA2]),
    ([0xA0, 0xA1, 0xA2, 0xA3, 1, 0, 0x41], [0x82, 0x20, 0xBF, 0x5D, 0xFB, 0x99, 0x38, 0xD6, 0x74, 0x12, 0xB0, 0x4F,
      0xED, 0x8B, 0x29, 0xC7, 0x66, 4, 0xA2]),
    ([0xA0, 0xA1, 0xA2, 0xA3, 1, 1, 0x41], [0x38, 0xD6, 0x74, 0x12, 0xB0, 0x4F, 0xED, 0x8B, 0x29, 0xC7, 0x66, 4, 0xA2,
      0x40, 0xDF, 0x7D])]

/-- The streams of `XOFSEC`: the examples of R100, R101 and R125; the keys of program P3; the keys of an
encapsulation with the seed `01 02`. -/
def secretStreams : List (List Byte × List Byte) :=
  [([1], [0x25, 0xF1, 0x10, 0x33, 0x00, 0xE7, 0x1F, 0x0C, 0x90, 0x4B, 0x02]),
    ([2], [0xF5, 0x0B, 0xFF, 0x71]), ([3], pairs 4), ([4], [0x1B, 0, 0, 0, 0, 0, 0, 0x80]),
    ([0x10, 0x20, 0x30, 0x53], [0xA0, 0x3E, 0xDC, 0x7B]), ([0x10, 0x20, 0x30, 0x45], [4, 0xA2, 0x40, 0xDF]),
    ([1, 2, 0x52], pairs 8), ([1, 2, 0x65], pairs 8),
    ([1, 2, 0, 0, 0, 0, 0x72], pairs 4 ++ [0x1B, 0, 0, 0, 0, 0, 0, 0x80])]

/-- The toy instance. -/
def toy : Params where
  d := 8
  q := 17
  psi := 3
  npoly := 8
  maxdim := 2
  bmemBytes := 256
  xof128 := matrixStreams
  xofsec := secretStreams
  gauss := [(⟨0x4000000000000000, 0xC000000000000000, 0x20000⟩, (2, -2)),
    (⟨0x4000000000000000, 0xC000000000000000, 0x18000⟩, (2, -2))]

/-- A slot from a tag and numbers. -/
def mk (t : Tag) (v : List Nat) : Slot := { tag := t, c := cellsOf v }

/-- The bytes of `BMEM`: `f` of program P1 at 0, the ternary bytes of R103 at 0x10, key pair, shared ciphertext,
hint and individual ciphertext of program P4 at 0x20 to 0x32, a message at 0x38, the public key of program P3 at
0x40, the seeds at 0x50, 0x58 and 0x60. -/
def bytes : List Host.Cell :=
  [0x41, 0x0C, 0x52, 0xCC, 0x41].zipIdx.map (fun x => (x.2, x.1)) ++
  [(0x10, 0x0B), (0x11, 0x71), (0x12, 0xA6)] ++
  [0xA0, 0x3E, 0xDC, 0x7B].zipIdx.map (fun x => (0x20 + x.2, x.1)) ++
  [0x10, 0x32, 0x54, 0x76, 0x98, 0xBA, 0xDC, 0xFE].zipIdx.map (fun x => (0x28 + x.2, x.1)) ++
  [(0x30, 0x5A), (0x31, 0x1B), (0x32, 0xE4), (0x38, 0xA5)] ++
  [0xA7, 0x25, 0x82, 0x56, 0x3B, 0x4C, 0xBC, 0x44, 0x54, 0x10].zipIdx.map (fun x => (0x40 + x.2, x.1)) ++
  [0x10, 0x20, 0x30].zipIdx.map (fun x => (0x50 + x.2, x.1)) ++ [(0x58, 1), (0x59, 2)] ++
  [0xA0, 0xA1, 0xA2, 0xA3].zipIdx.map (fun x => (0x60 + x.2, x.1))

/-- A running toy machine: every unit holds something, the configuration of `95_test_vectors.md` section 7 is
loaded (`M = N = 2`, `KIND = 1`, `DU = 4`, `DV = 2`), the matrix is that of program P3. -/
def base : State :=
  { State.launch toy (Memory.ofBytes 256 bytes) with
    slots := [mk .coef [1, 2, 3, 4, 5, 6, 7, 8], mk .coef [3, 0, 16, 1, 0, 0, 2, 5],
      mk .ntt [5, 0, 13, 8, 9, 11, 5, 8], mk .ntt [4, 10, 4, 11, 11, 1, 3, 14],
      mk .raw [0, 3, 4, 7, 8, 11, 12, 15], mk .raw [0, 1, 0, 1, 1, 0, 1, 0],
      mk .coef [0, 1, 2, 3, 4, 5, 6, 16], Slot.blank toy]
    acc := [-8, 1, 2, 3, 4, 5, 6, 7]
    accValid := true
    amat := [cellsOf [11, 9, 8, 6, 4, 2, 0, 16], cellsOf [0, 16, 15, 13, 11, 9, 7, 6],
      cellsOf [2, 0, 16, 15, 13, 11, 9, 7], cellsOf [16, 15, 13, 11, 9, 7, 6, 4]]
    aValid := true
    cfg0 := 0x00021122
    sigma0 := 0x00020000
    sigma1 := 0x00018000
    cfgValid := true
    inLen := 100
    xs := #v[⟨true, .s, [1], 0⟩, ⟨true, .s, [2], 0⟩, ⟨true, .s, [3], 0⟩, ⟨true, .s, [4], 0⟩] }

/-- `base` with the `ARG` registers from `ARG0` on. -/
def withArgs (l : List Word) : State := { base with args := Vector.ofFn fun k => l.getD k.val 0 }

/-- The outcome is a next state that passes. -/
def nextIs (o : Host.Outcome State Fault Refusal) (ok : State → Bool) : Bool :=
  match o with
  | .next t => ok t
  | .fault _ => false
  | .refused _ => false

/-- The state is `IDLE` and `P[n]` holds the tag and the numbers. -/
def holds (n : BitVec 8) (t : Tag) (v : List Nat) (s : State) : Bool :=
  s.phase == .idle && (s.slot n).tag == t && s.coeffs n == v

/-- The state is `IDLE` and `BMEM` holds the bytes from an address on. -/
def memoryHas (a : Nat) (l : List Byte) (s : State) : Bool :=
  s.phase == .idle && Memory.readBytes s.bmem a l.length == l

/-- The state is `ERROR` with this code. -/
def errorIs (code : Word) (s : State) : Bool := s.phase == .error && s.errCode == code

/-! ### Single steps -/

theorem test_nop : nextIs (exec .nop base) (fun t => t == base) = true := by decide +kernel
theorem test_ldcfg : nextIs (exec .ldcfg { base with cfgValid := false }) (fun t => t == base) = true := by
  decide +kernel
theorem test_ldcfg_reset : nextIs (exec .ldcfg State.reset) (errorIs 2) = true := by decide +kernel
theorem test_clrerr :
    nextIs (step ({ base with phase := .error, errCode := 1, errInfo := 0x01050031, cmdCnt := 5 }.present 2))
      (fun t => t == { base with cmdCnt := 6 }) = true := by decide +kernel
theorem test_ntt : nextIs (exec (.ntt 7 0) base) (holds 7 .ntt [5, 0, 13, 8, 9, 11, 5, 8]) = true := by
  decide +kernel
theorem test_ntt_in_place : nextIs (exec (.ntt 1 1) base) (holds 1 .ntt [4, 10, 4, 11, 11, 1, 3, 14]) = true := by
  decide +kernel
theorem test_intt : nextIs (exec (.intt 7 2) base) (holds 7 .coef [1, 2, 3, 4, 5, 6, 7, 8]) = true := by
  decide +kernel
theorem test_muln : nextIs (exec (.muln 7 2 3) base) (holds 7 .ntt [3, 0, 1, 3, 14, 11, 15, 10]) = true := by
  decide +kernel
theorem test_muln_empty_first : nextIs (exec (.muln 2 7 0) base) (errorIs 4) = true := by decide +kernel
theorem test_add : nextIs (exec (.add 7 0 1 0 0) base) (holds 7 .coef [4, 2, 2, 5, 5, 6, 9, 13]) = true := by
  decide +kernel
theorem test_sub : nextIs (exec (.sub 7 5 4 2 4) base) (holds 7 .raw [0, 14, 12, 10, 9, 5, 5, 1]) = true := by
  decide +kernel
theorem test_scale_reduces : nextIs (exec (.scale 7 0 20) base) (holds 7 .coef [3, 6, 9, 12, 15, 1, 4,
    7]) = true := by
  decide +kernel
theorem test_aclr :
    nextIs (exec .aclr { base with accValid :=
      false }) (fun t => t.accValid && t.acc == List.replicate 8 0) = true := by
  decide +kernel
theorem test_macs :
    nextIs (exec (.macs 0 1) { base with acc := List.replicate 8 0 })
      (fun t => t.acc.map BitVec.toInt == [-131, -152, -13, 8, 21, 34, 67, 134]) = true := by decide +kernel
theorem test_ared : nextIs (exec (.ared 7 0 0) base) (holds 7 .coef [9, 1, 2, 3, 4, 5, 6, 7]) = true := by
  decide +kernel
theorem test_snorm :
    nextIs (exec (.snorm 7 6) base) (holds 7 .raw [0, 1, 2, 3, 4, 5, 6, 0xFFFFFFFF]) = true := by decide +kernel
theorem test_geta : nextIs (exec (.geta 7 1 0) base) (holds 7 .ntt [2, 0, 16, 15, 13, 11, 9, 7]) = true := by
  decide +kernel
theorem test_geta_range : nextIs (exec (.geta 7 2 0) base) (errorIs 2) = true := by decide +kernel
theorem test_xinita :
    nextIs (exec (.xinita 0 3 0x50) base) (fun t => t.stream 0 == ⟨true, .a, [0x10, 0x20, 0x30], 0⟩) = true := by
  decide +kernel
theorem test_xinits_empty_seed :
    nextIs (exec (.xinits 3 0 0xFFFFFFFF) base) (fun t => t.stream 3 == ⟨true, .s, [], 0⟩) = true := by decide +kernel
theorem test_smpu :
    nextIs (exec (.smpu 7 0 0) base)
      (fun t => holds 7 .coef [5, 16, 0, 7, 12, 16, 11, 2] t && (t.stream 0).pos == 11) = true := by decide +kernel
theorem test_smpt :
    nextIs (exec (.smpt 1 0xFE) base) (fun t => memoryHas 0xFE [0x0B, 0x71] t && (t.stream 1).pos == 4) = true := by
  decide +kernel
theorem test_smpb :
    nextIs (exec (.smpb 3 0x80) base) (fun t => memoryHas 0x80 [0x1B] t && (t.stream 3).pos == 1) = true := by
  decide +kernel
theorem test_smpg :
    nextIs (exec (.smpg 7 2 0) base)
      (fun t => holds 7 .coef [2, 15, 2, 15, 2, 15, 2, 15] t && (t.stream 2).pos == 64) = true := by decide +kernel
theorem test_dect : nextIs (exec (.dect 7 4 0x10) base) (holds 7 .raw [1, 15, 0, 15, 15, 1, 0, 15]) = true := by
  decide +kernel
theorem test_decb : nextIs (exec (.decb 7 0 0x12) base) (holds 7 .coef [0, 1, 1, 0, 0, 1, 0, 1]) = true := by
  decide +kernel
theorem test_ser : nextIs (exec (.ser 0 5 0x80) base) (memoryHas 0x80 [0x41, 0x0C, 0x52, 0xCC, 0x41]) = true := by
  decide +kernel
theorem test_ser_width : nextIs (exec (.ser 6 4 0x80) base) (errorIs 1) = true := by decide +kernel
theorem test_deser : nextIs (exec (.deser 7 5 1 0) base) (holds 7 .coef [1, 2, 3, 4, 5, 6, 7, 8]) = true := by
  decide +kernel
theorem test_deser_length : nextIs (exec (.deser 7 5 1 0) { base with inLen := 4 }) (errorIs 1) = true := by
  decide +kernel
theorem test_comp : nextIs (exec (.comp 7 6 3 0 0) base) (holds 7 .raw [0, 0, 1, 1, 2, 2, 3, 0]) = true := by
  decide +kernel
theorem test_dcmp :
    nextIs (exec (.dcmp 7 5 3 0 0) base) (holds 7 .coef [0, 2, 0, 2, 2, 0, 2, 0]) = true := by decide +kernel
theorem test_rdbl :
    nextIs (exec (.rdbl 7 6 3) base)
      (fun t => holds 7 .raw [0, 1, 5, 6, 8, 10, 12, 32] t && (t.stream 3).pos == 8) = true := by decide +kernel
theorem test_xrnd : nextIs (exec (.xrnd 7 4 2 4) base) (holds 7 .raw [0, 0, 1, 1, 0, 0, 1, 1]) = true := by
  decide +kernel
theorem test_recn : nextIs (exec (.recn 7 4 5 2 4) base) (holds 7 .raw [0, 1, 0, 1, 1, 1, 0, 0]) = true := by
  decide +kernel

/-- The matrix of program P3 from its seed. -/
theorem test_setup :
    nextIs (exec .setup { withArgs [0x60, 4] with amat := List.replicate 4 (cellsOf []), aValid := false })
      (fun t => t.aValid && t.amat == base.amat) = true := by decide +kernel
/-- The key pair of program P3. -/
theorem test_keygen :
    nextIs (exec .keygen (withArgs [0x50, 3, 0x80, 0x90]))
      (fun t => memoryHas 0x80 [0xA7, 0x25, 0x82, 0x56, 0x3B, 0x4C, 0xBC, 0x44, 0x54, 0x10] t &&
        memoryHas 0x90 [0xA0, 0x3E, 0xDC, 0x7B] t) = true := by decide +kernel
/-- `KEYGEN` without a matrix raises and still clears the scratch (V7.4). -/
theorem test_keygen_clears :
    nextIs (exec .keygen { withArgs [0x50, 3, 0x80, 0x90] with aValid := false })
      (fun t => errorIs 4 t && !t.accValid && (t.slot 0).tag == .empty) = true := by decide +kernel
/-- Expected bytes computed by a separate program from the pseudocode of R142, R143 and R151. -/
theorem test_encap :
    nextIs (exec .encap (withArgs [0x58, 2, 0x40, 10, 1, 0x80, 0x90, 0x98]))
      (fun t => memoryHas 0x80 [0x55, 0x8A, 0x44, 0xA3, 0x83, 0x88, 0x42, 0x77] t &&
        memoryHas 0x90 [0x25] t && memoryHas 0x98 [0xCD] t) = true := by decide +kernel
/-- Expected bytes computed by a separate program from the pseudocode of R142, R144 and R151. -/
theorem test_enc :
    nextIs (exec .enc (withArgs [0x58, 2, 0x40, 10, 1, 0x80, 0x90, 0x38, 1]))
      (fun t => memoryHas 0x80 [0x55, 0x8A, 0x44, 0xA3, 0x83, 0x88, 0x42, 0x77] t &&
        memoryHas 0x90 [0xC7, 0x25] t) = true := by decide +kernel
/-- Program P4. -/
theorem test_decap :
    nextIs (exec .decap (withArgs [0x20, 4, 0x28, 8, 0x30, 1, 0xFF])) (memoryHas 0xFF [0xB2]) = true := by
  decide +kernel
/-- Program P4. -/
theorem test_dec :
    nextIs (exec .dec (withArgs [0x20, 4, 0x28, 8, 0x31, 2, 0x80])) (memoryHas 0x80 [0x36]) = true := by
  decide +kernel

/-! ### Witnesses: for every obligation with hypotheses, states and operands that meet them -/

theorem nextIs_exists {o : Host.Outcome State Fault Refusal} {ok : State → Bool} (h : nextIs o ok = true) :
    ∃ t, o = .next t ∧ ok t = true := by
  unfold nextIs at h
  split at h
  · exact ⟨_, rfl, h⟩
  · cases h
  · cases h

theorem toy_legal : toy.Legal where
  d_pow := ⟨3, by decide, by decide⟩
  q_prime := by decide
  q_odd := by decide
  q_lt := by decide
  q_mod := by decide
  psi_pos := by decide
  psi_lt := by decide
  psi_root := by decide
  npoly_pos := by decide
  npoly_le := by decide
  maxdim_pos := by decide
  maxdim_le := by decide
  bmem_pos := by decide
  bmem_le := by decide

theorem base_residues : base.ResiduesOk := by
  have slots : (base.slots.all fun x =>
      x.tag == .empty || x.tag == .raw || x.c.all fun c => Nat.blt c.toNat base.params.q) = true := by decide +kernel
  have amat : (base.amat.all fun f => f.all fun c => Nat.blt c.toNat base.params.q) = true := by decide +kernel
  refine ⟨fun x hx ht c hc => ?_, fun f hf c hc => ?_⟩
  · have := List.all_eq_true.mp slots x hx
    rcases ht with h | h <;> simp [h] at this <;> exact this c hc
  · have := List.all_eq_true.mp (List.all_eq_true.mp amat f hf) c hc
    simpa using this

theorem base_sound : base.Sound where
  legal := toy_legal
  memory := by decide +kernel
  config := by decide +kernel
  shape := by decide +kernel
  residues := base_residues

theorem withArgs_sound (l : List Word) : (withArgs l).Sound where
  legal := toy_legal
  memory := base_sound.memory
  config := base_sound.config
  shape := base_sound.shape
  residues := base_sound.residues

/-- `base` while a `SMPU` is in flight that has one draw left in its next attempt. -/
def running : State :=
  { base with phase := .busy, flight := some { instr := .smpu 7 0 0, budget := 1 } }

/-- `base` in the error state. -/
def failed : State := { base with phase := .error, errCode := 4, errInfo := 0x110 }

/-- Whether a command finds nothing wrong, to be decided on concrete states. -/
def noCauseDec (i : Instr) (s : State) : Decidable (noCause i s) := by
  cases i <;>
    (dsimp only [noCause, parameterCause, emptyCause, domainCause, addrCause, decodeCause, badTrit, badKey]
     infer_instance)

theorem noCause_of {i : Instr} {s : State} (h : @decide (noCause i s) (noCauseDec i s) = true) : noCause i s :=
  @of_decide_eq_true _ (noCauseDec i s) h

theorem test_witness_EncodeThenDecode :
    (Instr.add 31 0 31 2 32).wellFormed Params.default = true ∧ (Instr.ser 0 1 0xFFFFFFFF).wellFormed toy = true := by
  decide
theorem test_witness_DecodeThenEncode :
    decode Params.default 0xFFFFFFFFFFC00020 = .ok (.xinita 3 255 0xFFFFFFFF) := by decide +kernel

/-- No command has the opcode `0xFF`. -/
theorem opcode_ne (i : Instr) : (encode i).extractLsb' 0 8 ≠ 0xFF := by
  cases i <;> simp only [encode, wordS_op, wordR_op, wordM_op, wordI_op] <;> decide

theorem test_witness_EveryWordIsLegalOrRaises :
    base.phase = .idle ∧ (Instr.ntt 7 0).wellFormed base.params = true ∧ encode (.ntt 7 0) = 0x710 ∧
      ∀ i : Instr, i.wellFormed base.params = true → encode i ≠ 0xFF :=
  ⟨by decide +kernel, by decide +kernel, by decide +kernel, fun i _ h => opcode_ne i (by rw [h]; decide)⟩
/-- The ends of the ranges of illegal opcodes (R67). -/
theorem test_witness_opcodeRanges :
    ∀ op ∈ [0x03, 0x0F, 0x1B, 0x1F, 0x28, 0x2F, 0x37, 0x3F, 0x46, 0xFF],
      decode Params.default (BitVec.ofNat 64 op) = .error .unknownOpcode := by decide +kernel
theorem test_witness_StepRunsDecodedCommand :
    base.phase = .idle ∧ decode base.params 0x710 = .ok (.ntt 7 0) := by decide +kernel
theorem test_witness_WordsDropped :
    running.phase = .busy ∧ failed.phase = .error ∧ (0x102 : Cmd) ≠ 2 ∧ (255#32).toNat < failed.params.bmemBytes := by
  decide +kernel
theorem test_witness_NopAndClrerrWords :
    base.phase = .idle ∧ base.ErrorOk ∧ failed.phase = .error ∧
      (0x100 : Cmd).extractLsb' 0 8 = 0 ∧ (0x102 : Cmd).extractLsb' 0 8 = 2 := by decide +kernel
theorem test_witness_AcceptedCommandsAreCounted :
    (∃ t, step (base.present 0x710) = .next t ∧ (t.cmdCnt == 1) = true) ∧
      (∃ t, step (failed.present 0x710) = .next t ∧ (t.cmdCnt == 0) = true) ∧
      ∃ t, step ({ base with cmdCnt := 0xFFFFFFFF }.present 0) = .next t ∧ (t.cmdCnt == 0) = true :=
  ⟨nextIs_exists (by decide +kernel), nextIs_exists (by decide +kernel), nextIs_exists (by decide +kernel)⟩
theorem test_witness_HostWritesControlRegisters :
    base.phase ≠ .busy ∧ running.phase = .busy ∧ (0x1B#6).toNat = 0x10 + (11 : Fin 12).val ∧
      (0x10#6).toNat = 0x10 + (0 : Fin 12).val := by decide +kernel
theorem test_witness_ControlRegisterMap :
    base.phase ≠ .busy ∧ (0x07#6).toNat ≤ 0x07 ∧ 0x1C ≤ (0x3F#6).toNat ∧ (0x05#6) ≠ 0x00 := by decide +kernel
theorem test_witness_HostMemoryPort :
    running.phase = .busy ∧ base.phase ≠ .busy ∧ base.MemoryOk ∧ (255#32).toNat < base.params.bmemBytes := by
  decide +kernel
theorem test_witness_StopsOnlyAtTheMemoryPort :
    base.phase ≠ .busy ∧ failed.phase ≠ .busy ∧ base.params.bmemBytes ≤ (256#32).toNat ∧
      failed.params.bmemBytes ≤ (0xFFFFFFFF#32).toNat := by decide +kernel
theorem test_witness_SystemCommands :
    base.cfgLegal = true ∧ { base with sigma0 := 18919 }.cfgLegal = true ∧
      { base with sigma0 := 18918 }.cfgLegal = false ∧ State.reset.cfgLegal = false := by decide +kernel

theorem test_witness_TransformCommands :
    base.Sound ∧ noCause (.ntt 7 0) base ∧ noCause (.intt 0 3) base :=
  ⟨base_sound, noCause_of (by decide +kernel), noCause_of (by decide +kernel)⟩
theorem test_witness_PointwiseCommands :
    base.Sound ∧ noCause (.muln 7 2 3) base ∧ noCause (.add 0 0 1 0 0) base ∧ noCause (.add 7 4 5 2 32) base ∧
      noCause (.sub 7 4 4 1 0) base :=
  ⟨base_sound, noCause_of (by decide +kernel), noCause_of (by decide +kernel), noCause_of (by decide +kernel),
    noCause_of (by decide +kernel)⟩
theorem test_witness_ScaleAndSignedNormalize :
    base.Sound ∧ noCause (.scale 7 2 0xFFFFFFFF) base ∧ noCause (.snorm 7 6) base :=
  ⟨base_sound, noCause_of (by decide +kernel), noCause_of (by decide +kernel)⟩
theorem test_witness_AccumulatorClearAndReduce :
    base.Sound ∧ noCause (.ared 7 0 0) base ∧ noCause (.ared 0 2 32) base :=
      ⟨base_sound, noCause_of (by decide +kernel), noCause_of (by decide +kernel)⟩
theorem test_witness_MultiplyAccumulate : base.Sound ∧ noCause (.macs 0 4) base :=
  ⟨base_sound, noCause_of (by decide +kernel)⟩
theorem test_witness_CopyMatrixEntry : base.Sound ∧ noCause (.geta 7 1 1) base :=
  ⟨base_sound, noCause_of (by decide +kernel)⟩
theorem test_witness_OpenStreams :
    noCause (.xinita 3 255 1) base ∧ noCause (.xinits 0 0 0xFFFFFFFF) base :=
      ⟨noCause_of (by decide +kernel), noCause_of (by decide +kernel)⟩
theorem test_witness_SampleIntoSlot :
    base.Sound ∧ noCause (.smpu 7 0 1) base ∧ noCause (.smpg 7 2 0) base ∧
      sampleUniform base.params (xofStream base.params (base.stream 0).kind (base.stream 0).seed) base.budget
        (base.stream 0).pos = some ([5, 16, 0, 7, 12, 16, 11, 2], 11) ∧
      sampleGaussian base.params (if (0 : BitVec 4) = 0 then base.sigma0 else base.sigma1)
        (xofStream base.params (base.stream 2).kind (base.stream 2).seed) base.budget (base.stream 2).pos =
          some ([2, 15, 2, 15, 2, 15, 2, 15], 64) :=
  ⟨base_sound, noCause_of (by decide +kernel), noCause_of (by decide +kernel), by decide +kernel, by decide +kernel⟩
theorem test_witness_SampleIntoMemory :
    base.Sound ∧ noCause (.smpt 1 0xFE) base ∧ noCause (.smpb 3 0xFF) base ∧
      sampleTernary base.params (xofStream base.params (base.stream 1).kind (base.stream 1).seed) base.budget
        (base.stream 1).pos = some ([0x0B, 0x71], 4) :=
  ⟨base_sound, noCause_of (by decide +kernel), noCause_of (by decide +kernel), by decide +kernel⟩
theorem test_witness_DecodeSmallSecrets :
    base.Sound ∧ noCause (.dect 7 0 0x10) base ∧ noCause (.dect 7 32 0x10) base ∧ noCause (.decb 7 1 0xFF) base :=
  ⟨base_sound, noCause_of (by decide +kernel), noCause_of (by decide +kernel), noCause_of (by decide +kernel)⟩
theorem test_witness_SerializeCommand : base.Sound ∧ noCause (.ser 6 5 0xFB) base ∧ noCause (.ser 4 32 0) base :=
  ⟨base_sound, noCause_of (by decide +kernel), noCause_of (by decide +kernel)⟩
theorem test_witness_DeserializeCommand :
    base.Sound ∧ noCause (.deser 7 5 1 0) base ∧ noCause (.deser 7 5 2 0) base ∧ noCause (.deser 0 32 0 0xE0) base :=
  ⟨base_sound, noCause_of (by decide +kernel), noCause_of (by decide +kernel), noCause_of (by decide +kernel)⟩
theorem test_witness_RoundingCommands :
    base.Sound ∧ noCause (.comp 7 0 1 0 0) base ∧ noCause (.dcmp 7 4 32 2 32) base ∧ noCause (.xrnd 7 4 1 0) base :=
  ⟨base_sound, noCause_of (by decide +kernel), noCause_of (by decide +kernel), noCause_of (by decide +kernel)⟩
theorem test_witness_RandomizedDoubling : base.Sound ∧ noCause (.rdbl 6 6 3) base :=
  ⟨base_sound, noCause_of (by decide +kernel)⟩
theorem test_witness_ReconcileCommand :
    base.Sound ∧ noCause (.recn 7 4 5 2 4) base ∧ noCause (.recn 7 0 5 0 0) base :=
      ⟨base_sound, noCause_of (by decide +kernel), noCause_of (by decide +kernel)⟩

/-- A machine ready for `SETUP`, and the entries the streams give. -/
theorem test_witness_SetupCommand :
    (withArgs [0x60, 4]).Sound ∧ noCause .setup (withArgs [0x60, 4]) ∧
      ∀ i j, i < (withArgs [0x60, 4]).cfgM → j < (withArgs [0x60, 4]).cfgN → ∃ pos,
        sampleUniform toy
          (xofStream toy .a
            (Memory.readBytes base.bmem 0x60 4 ++ [BitVec.ofNat 8 i, BitVec.ofNat 8 j, 0x41])) base.budget 0 =
          some (base.matrix i j, pos) := by
  refine ⟨withArgs_sound _, noCause_of (by decide +kernel), fun i j hi hj => ?_⟩
  have hM : (withArgs [0x60, 4]).cfgM = 2 := by decide +kernel
  have hN : (withArgs [0x60, 4]).cfgN = 2 := by decide +kernel
  have h : ∀ i < 2, ∀ j < 2,
      (sampleUniform toy
        (xofStream toy .a
          (Memory.readBytes base.bmem 0x60 4 ++ [BitVec.ofNat 8 i, BitVec.ofNat 8 j, 0x41])) base.budget 0).map
        Prod.fst = some (base.matrix i j) := by decide +kernel
  obtain ⟨⟨v, pos⟩, h1, h2⟩ := Option.map_eq_some_iff.mp (h i (by omega) j (by omega))
  exact ⟨pos, by rw [h1]; simp_all⟩

theorem test_witness_KeygenCommand :
    let s := withArgs [0x50, 3, 0x80, 0x90]
    s.Sound ∧ noCause .keygen s ∧
      sampleVec (smallSample s.setting (xofStream toy .s (s.seed ++ [0x53]))) s.cfgM 0 =
        some ([[0xA0, 0x3E], [0xDC, 0x7B]], 4) ∧
      sampleVec (smallSample s.setting (xofStream toy .s (s.seed ++ [0x45]))) s.cfgN 0 =
        some ([[4, 0xA2], [0x40, 0xDF]], 4) :=
  ⟨withArgs_sound _, noCause_of (by decide +kernel), by decide +kernel, by decide +kernel⟩

/-- The Gaussian polynomial of the fixture streams. -/
def gaussian : List Nat := [2, 15, 2, 15, 2, 15, 2, 15]

theorem test_witness_EncapCommand :
    let s := withArgs [0x58, 2, 0x40, 10, 1, 0x80, 0x90, 0x98]
    s.Sound ∧ noCause .encap s ∧
      sampleVec (sampleGaussian toy s.sigma0 (xofStream toy .s (s.seed ++ [0x52])) s.budget) s.cfgN 0 =
        some ([gaussian, gaussian], 128) ∧
      sampleVec (sampleGaussian toy s.sigma0 (xofStream toy .s (s.seed ++ [0x65])) s.budget) s.cfgM 0 =
        some ([gaussian, gaussian], 128) ∧
      s.arg 4 = 1 ∧
      sampleGaussian toy s.sigma1 (xofStream toy .s (s.seed ++ le32 0 ++ [0x72])) s.budget 0 = some (gaussian, 64) :=
  ⟨withArgs_sound _, noCause_of (by decide +kernel), by decide +kernel, by decide +kernel, by decide +kernel,
    by decide +kernel⟩
theorem test_witness_EncCommand :
    let s := withArgs [0x58, 2, 0x40, 10, 1, 0x80, 0x90, 0x38, 1]
    s.Sound ∧ noCause .enc s ∧
      sampleVec (sampleGaussian toy s.sigma0 (xofStream toy .s (s.seed ++ [0x52])) s.budget) s.cfgN 0 =
        some ([gaussian, gaussian], 128) ∧
      sampleVec (sampleGaussian toy s.sigma0 (xofStream toy .s (s.seed ++ [0x65])) s.budget) s.cfgM 0 =
        some ([gaussian, gaussian], 128) ∧
      s.arg 4 = 1 ∧
      sampleGaussian toy s.sigma1 (xofStream toy .s (s.seed ++ le32 0 ++ [0x72])) s.budget 0 = some (gaussian, 64) :=
  ⟨withArgs_sound _, noCause_of (by decide +kernel), by decide +kernel, by decide +kernel, by decide +kernel,
    by decide +kernel⟩
theorem test_witness_DecapCommand :
    (withArgs [0x20, 4, 0x28, 8, 0x30, 1, 0xFF]).Sound ∧ noCause .decap (withArgs [0x20, 4, 0x28, 8, 0x30, 1,
      0xFF]) :=
  ⟨withArgs_sound _, noCause_of (by decide +kernel)⟩
theorem test_witness_DecCommand :
    (withArgs [0x20, 4, 0x28, 8, 0x31, 2, 0x80]).Sound ∧ noCause .dec (withArgs [0x20, 4, 0x28, 8, 0x31, 2, 0x80]) :=
  ⟨withArgs_sound _, noCause_of (by decide +kernel)⟩

/-- For `TransformClosedForm`, `TransformRoundTrip`, `TransformConvolution` and `TransformLinear`. -/
theorem test_witness_Transforms :
    toy.Legal ∧ ([1, 2, 3, 4, 5, 6, 7, 16] : List Nat).length = toy.d ∧
      ∀ x ∈ ([1, 2, 3, 4, 5, 6, 7, 16] : List Nat), x < toy.q :=
  ⟨toy_legal, by decide, by decide⟩
theorem test_witness_SerializationRoundTrip :
    ([0, 31, 2, 3, 4, 5, 6, 7] : List Nat).length = toy.d ∧ (∀ x ∈ ([0, 31, 2, 3, 4, 5, 6, 7] : List Nat),
      x < 2 ^ 5) ∧
      base.Sound ∧ noCause (.ser 6 5 0xFB) base ∧ (Instr.deser 7 5 0 0xFB).wellFormed base.params = true :=
  ⟨by decide, by decide, base_sound, noCause_of (by decide +kernel), by decide +kernel⟩
theorem test_witness_CompressionBound : 0 < 17 ∧ 1 ≤ 1 ∧ 16 < 17 := by decide
theorem test_witness_ReconciliationCorrect :
    2 ≤ 16 ∧ 15 < 16 ∧ -((16 / 8 : Nat) : Int) ≤ -2 ∧ (1 : Int) < ((16 / 8 : Nat) : Int) := by decide
theorem test_witness_RejectionLoops : toy.d % 2 = 0 := by decide
theorem test_witness_GaussmapProperties :
    (1 : ℚ) = ((((0xFFFFFFFFFFFFFFFF : BitVec 64).toInt : ℚ) + 1) / 2 ^ 63) ^ 2 +
      ((((0x7FFFFFFFFFFFFFFF : BitVec 64).toInt : ℚ) + 1) / 2 ^ 63) ^ 2 := by
  have h1 : (0xFFFFFFFFFFFFFFFF : BitVec 64).toInt = -1 := by decide
  have h2 : (0x7FFFFFFFFFFFFFFF : BitVec 64).toInt = 2 ^ 63 - 1 := by decide
  rw [h1, h2]
  norm_num
theorem test_witness_DecapIsTheAccumulatorPath : base.setting.du ≤ 32 := by decide +kernel

/-- Each class of R168 in its turn, and no cause. -/
theorem test_witness_ErrorsInOrder :
    (Instr.ntt 8 0).wellFormed base.params = false ∧ parameterCause (.geta 7 2 0) base ∧
    (¬parameterCause (.ntt 0 7) base ∧ emptyCause (.ntt 0 7) base) ∧
    (¬parameterCause (.intt 7 0) base ∧ ¬emptyCause (.intt 7 0) base ∧ domainCause (.intt 7 0) base) ∧
    (¬emptyCause (.ser 0 5 0xFC) base ∧ ¬domainCause (.ser 0 5 0xFC) base ∧ addrCause (.ser 0 5 0xFC) base) ∧
    (¬emptyCause (.ser 6 4 0) base ∧ ¬addrCause (.ser 6 4 0) base ∧ decodeCause (.ser 6 4 0) base) ∧
    noCause (.ser 6 5 0xFB) base := by
  simp only [noCause, parameterCause, emptyCause, domainCause, addrCause, decodeCause, inputRanges, outputRanges]
  decide +kernel

/-- For `ErrorsPerCommand`, `ErrorEntry`, `ProtocolClearsScratch` and `UntouchedState`: an error of a protocol
command, of `LDCFG` and of another command, and an ill-formed one. -/
theorem test_witness_ErrorEntry :
    (∃ t, exec .keygen { base with aValid := false } = .next t ∧ errorIs 4 t = true) ∧
      (∃ t, exec .ldcfg { base with cfg0 := 0 } = .next t ∧ errorIs 2 t = true) ∧
      (∃ t, exec (.ntt 0 7) base = .next t ∧ errorIs 4 t = true) ∧
      ∃ t, exec (.ntt 0 8) base = .next t ∧ errorIs 3 t = true :=
  ⟨nextIs_exists (by decide +kernel), nextIs_exists (by decide +kernel), nextIs_exists (by decide +kernel),
    nextIs_exists (by decide +kernel)⟩
/-- For `ProtocolClearsScratch`, `ProtocolIgnoresScratch` and `UntouchedState`. -/
theorem test_witness_ProtocolClearsScratch :
    isProtocol .decap = true ∧
      ∃ t, exec .decap (withArgs [0x20, 4, 0x28, 8, 0x30, 1, 0xFF]) = .next t ∧ (t.phase != .busy) = true :=
  ⟨by decide, nextIs_exists (by decide +kernel)⟩

/-- For the invariants `MemoryKept`, `ConfigurationKept`, `ShapeKept`, `ResiduesKept`, `ErrorRegistersKept`. -/
theorem test_witness_Invariants :
    base.Sound ∧ base.ErrorOk ∧ failed.ErrorOk ∧ running.ErrorOk ∧
      (∃ t, step (base.present 0x710) = .next t ∧ (t.phase == .idle) = true) ∧
      ∃ t, step (failed.present 0x710) = .next t ∧ (t.phase == .error) = true :=
  ⟨base_sound, by decide +kernel, by decide +kernel, by decide +kernel, nextIs_exists (by decide +kernel),
    nextIs_exists (by decide +kernel)⟩
theorem test_witness_InvariantsAtReset :
    toy.Legal ∧ Memory.wf (Memory.ofBytes 256 bytes) ∧ ∀ x ∈ Memory.ofBytes 256 bytes, x.1 < toy.bmemBytes :=
  ⟨toy_legal, by decide +kernel, by decide +kernel⟩
theorem test_witness_OnlySamplingRunsOn :
    (∃ t, exec (.smpu 7 0 0) running = .next t ∧ (t.phase == .busy) = true) ∧
      ∃ t, step running = .next t ∧ (t.phase == .busy) = true :=
  ⟨nextIs_exists (by decide +kernel), nextIs_exists (by decide +kernel)⟩
theorem test_witness_RejectionLoopEnds :
    running.Sound ∧ noCause (.smpu 7 0 0) running ∧ running.phase = .busy ∧ running.port = [] ∧
      running.flight = some { instr := .smpu 7 0 0, budget := 1 } ∧
      sampleUniform toy (xofStream toy (running.stream 0).kind (running.stream 0).seed) 11 (running.stream 0).pos =
        some ([5, 16, 0, 7, 12, 16, 11, 2], 11) :=
  ⟨⟨toy_legal, base_sound.memory, base_sound.config, base_sound.shape, base_sound.residues⟩,
    noCause_of (by decide +kernel),
    by decide +kernel, by decide +kernel, by decide +kernel, by decide +kernel⟩
/-- The engine's own moves end that `SMPU`. -/
theorem test_rejection_loop_ends :
    nextIs (Host.Core.run core 5 running) (holds 7 .coef [5, 16, 0, 7, 12, 16, 11, 2]) = true := by decide +kernel

/-! ### End to end (`44_protocol.md` R152)

The run of `95_test_vectors.md` section 6 (its fixture XOF, seeds, widths `DU`, `DV`, `KIND`, σ and five
recipients) in a small ring, `D = 8` and `Q = 12289` with `M = N = 2`, so that the kernel evaluates it. The pairs
of `GAUSSMAP` are those of the reference formula of R96, computed outside the model. -/

/-- `n` bytes of `TESTXOF(seed)` (`95_test_vectors.md`). -/
def testXof (n : Nat) (seed : List Byte) : List Byte × List Byte :=
  let s0 := (seed.zipIdx.map fun x => (x.2 + 1) * x.1.toNat).sum % 2 ^ 32
  (seed, (List.range n).map fun k => BitVec.ofNat 8 ((s0 + k) * 2654435761 % 2 ^ 32 / 2 ^ 24))

/-- The accepted draws of the run and their pairs. -/
def gaussPairs : List (GaussArg × (Int × Int)) :=
  [(⟨0xFB5DBE2082E446A7, 0xED4EB01274D63799, 0x20000⟩, (-1, -5)),
    (⟨0xDE40A20465C7298B, 0xD03294F557B91B7D, 0x20000⟩, (-2, -3)),
    (⟨0xC22485E749AB0D6E, 0xB41577D93B9CFE60, 0x20000⟩, (-1, -2)),
    (⟨0x50B11375D7399AFC, 0x41A30567C92A8CEE, 0x20000⟩, (1, 1)),
    (⟨0x3395F758BA1C7EE0, 0x2587E84AAC0E70D1, 0x20000⟩, (3, 2)),
    (⟨0x1778DA3C9E0061C3, 0x086ACC2E8FF153B5, 0x20000⟩, (5, 2)),
    (⟨0xFA5CBE1F81E345A7, 0xEC4EAF1173D53798, 0x20000⟩, (-1, -5)),
    (⟨0xDE3FA10365C6288A, 0xCF3193F556B81A7C, 0x20000⟩, (-2, -3)),
    (⟨0x4CAD0F71D33496F8, 0x3D9F0163C42688EA, 0x20000⟩, (2, 1)),
    (⟨0x2F91F354B6187ADB, 0x2182E446A80A6BCD, 0x20000⟩, (3, 2)),
    (⟨0x1274D6389AFB5DBF, 0x0466C82A8BED4FB1, 0x20000⟩, (5, 1)),
    (⟨0xF658B91B7DDF41A2, 0xE849AB0D6FD13294, 0x20000⟩, (-2, -5)),
    (⟨0xD93B9DFF61C22486, 0xCB2D8FF052B41678, 0x20000⟩, (-2, -3)),
    (⟨0xBD1F80E244A60869, 0xAF1072D43697F95B, 0x20000⟩, (-1, -1)),
    (⟨0x4BAC0E70D23495F7, 0x3C9E0062C42587E9, 0x20000⟩, (2, 1)),
    (⟨0x2E90F254B51779DB, 0x2082E345A7096BCC, 0x20000⟩, (3, 2)),
    (⟨0x5ABC1E7FE143A506, 0x4CAD0F71D33596F8, 0x18000⟩, (1, 1)),
    (⟨0x3D9F0163C52688EA, 0x2F91F355B6187ADC, 0x18000⟩, (2, 1)),
    (⟨0x2183E446A80A6CCD, 0x1374D6389AFC5DBF, 0x18000⟩, (3, 2)),
    (⟨0x0466C82A8CED4FB1, 0xF658BA1B7DDF41A3, 0x18000⟩, (2, -4)),
    (⟨0xC12385E748AA0C6E, 0xB31576D83A9CFE5F, 0x18000⟩, (-1, -1)),
    (⟨0x4FB11374D6389AFC, 0x41A30466C82A8CED, 0x18000⟩, (1, 1)),
    (⟨0x3394F658BA1B7DDF, 0x2486E84AAB0D6FD1, 0x18000⟩, (2, 1)),
    (⟨0x1678DA3B9DFF61C2, 0x086ACB2D8FF152B4, 0x18000⟩, (4, 1)),
    (⟨0xEF51B31576D83A9C, 0xE143A50668CA2C8E, 0x18000⟩, (-2, -3)),
    (⟨0xD33596F85ABC1E7F, 0xC52688EA4CAD0F71, 0x18000⟩, (-1, -2)),
    (⟨0xB6187ADC3D9F0163, 0xA80A6CCD2F91F355, 0x18000⟩, (-1, -1)),
    (⟨0x44A6086ACB2D8FF1, 0x3698F95BBD1F81E2, 0x18000⟩, (1, 1)),
    (⟨0x1E7FE143A50668CA, 0x0F71D33596F85ABC, 0x18000⟩, (3, 2)),
    (⟨0x0163C52688EA4CAD, 0xF355B6187ADC3D9F, 0x18000⟩, (0, -4)),
    (⟨0xE446A80A6CCD2F91, 0xD6389AFC5DBF2183, 0x18000⟩, (-2, -2)),
    (⟨0xC82A8CED4FB11374, 0xBA1B7DDF41A30466, 0x18000⟩, (-1, -1)),
    (⟨0x4CAD0F71D33596F8, 0x3D9F0163C52688EA, 0x18000⟩, (1, 1)),
    (⟨0x2F91F355B6187ADC, 0x2183E446A80A6CCD, 0x18000⟩, (2, 2)),
    (⟨0x1374D6389AFC5DBF, 0x0466C82A8CED4FB1, 0x18000⟩, (4, 1)),
    (⟨0xF658BA1B7DDF41A3, 0xE84AAB0D6FD13394, 0x18000⟩, (-1, -3))]

/-- `"0123456789abcdef"`. -/
def seedA : List Byte :=
  [0x30, 0x31, 0x32, 0x33, 0x34, 0x35, 0x36, 0x37, 0x38, 0x39, 0x61, 0x62, 0x63, 0x64, 0x65, 0x66]

/-- `"KEYSEED0"` to `"KEYSEED4"`. -/
def keySeed (k : Nat) : List Byte := [0x4B, 0x45, 0x59, 0x53, 0x45, 0x45, 0x44, BitVec.ofNat 8 (0x30 + k)]

/-- `"ENCAPSEED"`. -/
def encSeed : List Byte := [0x45, 0x4E, 0x43, 0x41, 0x50, 0x53, 0x45, 0x45, 0x44]

/-- The configuration of section 6 in the small ring. -/
def endToEnd : Setting where
  p :=
    { d := 8, q := 12289, psi := 722, npoly := 8, maxdim := 2, bmemBytes := 256
      xof128 := [matrixKey seedA 0 0, matrixKey seedA 0 1, matrixKey seedA 1 0, matrixKey seedA 1 1].map (testXof 64)
      xofsec :=
        ((List.range 5).flatMap fun k => [secretKey (keySeed k), errorKey (keySeed k)].map (testXof 16)) ++
          ([sharedKey encSeed, sharedErrorKey encSeed] ++ (List.range 5).map (recipientKey encSeed)).map (testXof 256)
      gauss := gaussPairs }
  m := 2
  n := 2
  ternary := true
  du := 11
  dv := 4
  sigma0 := 0x20000
  sigma1 := 0x18000
  budget := Config.burst

/-- Both properties of R152 hold of that run, for all five recipients. -/
theorem test_endToEnd :
    (kemRoundTrip endToEnd seedA keySeed encSeed 5 &&
      pkeRoundTrip endToEnd seedA keySeed encSeed 5 fun k => [BitVec.ofNat 8 (17 * k + 1)]) = true := by
  decide +kernel

end Sys2Proof.Machine.Tests
end

section
/-! SUPPORT. Lengths of the byte strings that the protocol operations store (`44_protocol.md` R150). -/

namespace Sys2Proof.Machine

/-- Strings of one length put together. -/
theorem length_flatMap_of_forall {α β : Type} {l : List α} {f : α → List β} {n : Nat}
    (h : ∀ x ∈ l, (f x).length = n) : (l.flatMap f).length = l.length * n := by
  induction l with
  | nil => simp
  | cons x rest ih =>
    have hx := h x (by simp)
    have hrest := ih fun y hy => h y (by simp [hy])
    simp only [List.flatMap_cons, List.length_append, List.length_cons, hx, hrest]
    ring

/-- A polynomial packed at one bit takes `SZB` bytes. -/
theorem packedLen_one (p : Params) : packedLen p 1 = szb p := by simp [packedLen, szb]

section SampleVec
variable {α : Type} {sample : Nat → Option (α × Nat)} {k pos : Nat} {v : List α} {pos' : Nat}

theorem sampleVec_length (h : sampleVec sample k pos = some (v, pos')) : v.length = k := by
  induction k generalizing pos v pos' with
  | zero => simp_all [sampleVec]
  | succ k ih =>
    simp only [sampleVec] at h
    split at h
    · cases h
    · split at h
      · cases h
      · rename_i hrec
        cases h
        simp [ih hrec]

theorem sampleVec_mem (h : sampleVec sample k pos = some (v, pos')) :
    ∀ x ∈ v, ∃ q q', sample q = some (x, q') := by
  induction k generalizing pos v pos' with
  | zero => simp_all [sampleVec]
  | succ k ih =>
    simp only [sampleVec] at h
    split at h
    · cases h
    · rename_i hx
      split at h
      · cases h
      · rename_i hrec
        cases h
        intro y hy
        rcases List.mem_cons.mp hy with rfl | hy
        · exact ⟨_, _, hx⟩
        · exact ih hrec y hy

end SampleVec

theorem sampleBinary_length (p : Params) (st : Nat → Byte) (pos : Nat) :
    (sampleBinary p st pos).1.length = szb p := by
  simp [sampleBinary, streamBytes]

theorem smallSample_length {g : Setting} {st : Nat → Byte} {pos : Nat} {b : List Byte} {pos' : Nat}
    (h : smallSample g st pos = some (b, pos')) : b.length = g.szs := by
  unfold smallSample at h
  unfold Setting.szs
  split at h
  · rw [if_pos ‹_›]
    exact sampleTernary_length h
  · rw [if_neg ‹_›]
    have hb := sampleBinary_length g.p st pos
    rwa [Option.some.inj h] at hb

/-- What the answers of a list of attempts have in common with the attempts. -/
theorem allSome_map_mem {α β : Type} {f : α → Option β} {l : List α} {v : List β}
    (h : allSome (l.map f) = some v) : ∀ y ∈ v, ∃ x ∈ l, f x = some y := by
  intro y hy
  have hsome : some y ∈ l.map f := by
    rw [allSome_eq_some.mp h]
    exact List.mem_map_of_mem hy
  exact List.mem_map.mp hsome

theorem allSome_length {α : Type} {l : List (Option α)} {v : List α} (h : allSome l = some v) :
    v.length = l.length := by
  simp [allSome_eq_some.mp h]

/-- `KEYGEN` gives `PKLEN` and `SKLEN` bytes. -/
theorem keygen_length {g : Setting} {matrix : Nat → Nat → List Nat} {seed pk sk : List Byte}
    (h : keygen g matrix seed = some (pk, sk)) : pk.length = g.pklen ∧ sk.length = g.sklen := by
  unfold keygen at h
  split at h
  · rename_i sb _ eb _ hsb heb
    cases h
    constructor
    · rw [length_flatMap_of_forall (n := pkpoly g.p) fun _ _ => length_serialize ..]
      simp [Setting.pklen, sampleVec_length heb]
    · have hlen : ∀ b ∈ sb, (id b).length = g.szs := fun b hb => by
        obtain ⟨_, _, hdraw⟩ := sampleVec_mem hsb b hb
        exact smallSample_length hdraw
      rw [← List.flatMap_id, length_flatMap_of_forall hlen, sampleVec_length hsb, Setting.sklen]
  · cases h

theorem sharedRow_length (g : Setting) (matrix : Nat → Nat → List Nat) (rhat : List (List Nat)) (i : Nat)
    (eu : List Nat) : (sharedRow g matrix rhat i eu).length = g.szu := by
  simp [sharedRow, Setting.szu]

/-- The shared ciphertext has `SCTLEN` bytes. -/
theorem encShared_length {g : Setting} {matrix : Nat → Nat → List Nat} {seed sct : List Byte}
    {rhat : List (List Nat)} (h : encShared g matrix seed = some (rhat, sct)) : sct.length = g.sctlen := by
  unfold encShared at h
  split at h
  · rename_i heu
    cases h
    rw [length_flatMap_of_forall fun _ _ => sharedRow_length ..]
    simp [Setting.sctlen, sampleVec_length heu]
  · cases h

theorem encapOne_length {g : Setting} {seed : List Byte} {rhat : List (List Nat)} {pk : Nat → List Byte} {k : Nat}
    {hint key : List Byte} (h : encapOne g seed rhat pk k = some (hint, key)) :
    hint.length = szb g.p ∧ key.length = szb g.p := by
  unfold encapOne at h
  split at h <;> cases h
  simp [packedLen_one]

theorem encOne_length {g : Setting} {seed : List Byte} {rhat : List (List Nat)} {pk msg : Nat → List Byte} {k : Nat}
    {ct : List Byte} (h : encOne g seed rhat pk msg k = some ct) : ct.length = g.szv := by
  unfold encOne at h
  split at h <;> cases h
  simp [Setting.szv]

/-- `ENCAP` gives `SCTLEN` bytes of shared ciphertext, and `SZB` bytes of hint and of key per recipient. -/
theorem encap_length {g : Setting} {matrix : Nat → Nat → List Nat} {seed sct : List Byte} {nr : Nat}
    {pk : Nat → List Byte} {hk : List (List Byte × List Byte)} (h : encap g matrix seed nr pk = some (sct, hk)) :
    sct.length = g.sctlen ∧ (hk.flatMap Prod.fst).length = nr * szb g.p ∧
      (hk.flatMap Prod.snd).length = nr * szb g.p := by
  unfold encap at h
  split at h
  · cases h
  · rename_i hshared
    split at h
    · cases h
    · rename_i hall
      cases h
      have hnr : hk.length = nr := by simpa using allSome_length hall
      have hone : ∀ x ∈ hk, x.1.length = szb g.p ∧ x.2.length = szb g.p := fun x hx => by
        obtain ⟨_, _, hk⟩ := allSome_map_mem hall x hx
        exact encapOne_length hk
      refine ⟨encShared_length hshared, ?_, ?_⟩
      · rw [length_flatMap_of_forall fun x hx => (hone x hx).1, hnr]
      · rw [length_flatMap_of_forall fun x hx => (hone x hx).2, hnr]

/-- `ENC` gives `SCTLEN` bytes of shared ciphertext, and `SZV` bytes of ciphertext per recipient. -/
theorem enc_length {g : Setting} {matrix : Nat → Nat → List Nat} {seed sct : List Byte} {nr : Nat}
    {pk msg : Nat → List Byte} {cts : List (List Byte)} (h : enc g matrix seed nr pk msg = some (sct, cts)) :
    sct.length = g.sctlen ∧ cts.flatten.length = nr * g.szv := by
  unfold enc at h
  split at h
  · cases h
  · rename_i hshared
    split at h
    · cases h
    · rename_i hall
      cases h
      have hone : ∀ x ∈ cts, (id x).length = g.szv := fun x hx => by
        obtain ⟨_, _, hk⟩ := allSome_map_mem hall x hx
        exact encOne_length hk
      refine ⟨encShared_length hshared, ?_⟩
      rw [← List.flatMap_id, length_flatMap_of_forall hone, allSome_length hall]
      simp

theorem decap_length (g : Setting) (sk sct hint : List Byte) : (decap g sk sct hint).length = szb g.p := by
  simp [decap, packedLen_one]

theorem dec_length (g : Setting) (sk sct ict : List Byte) : (dec g sk sct ict).length = szb g.p := by
  simp [dec, packedLen_one]

end Sys2Proof.Machine
end

section
/-! SUPPORT. What a command can do, said once: what it writes to a slot, its effect, and how its run ends.
Every statement about all commands is proved from these, and no proof below runs through `exec` again. -/

namespace Sys2Proof.Machine

/-- A command that writes a slot, and from which state: the slot, its tag and its coefficients. The premises are
what the command's checks have made sure of. -/
inductive SlotResult (s : State) : Instr → BitVec 8 → Tag → List Nat → Prop
  | ntt {pd pa : BitVec 8} (ha : (s.slot pa).tag = .coef) :
      SlotResult s (.ntt pd pa) pd .ntt (nttf s.params (s.coeffs pa))
  | intt {pd pa : BitVec 8} (ha : (s.slot pa).tag = .ntt) :
      SlotResult s (.intt pd pa) pd .coef (ntti s.params (s.coeffs pa))
  | muln {pd pa pb : BitVec 8} (ha : (s.slot pa).tag = .ntt) (hb : (s.slot pb).tag = .ntt) :
      SlotResult s (.muln pd pa pb) pd .ntt (mulPointwise s.params.q (s.coeffs pa) (s.coeffs pb))
  | add {pd pa pb : BitVec 8} {msel : BitVec 2} {mbits : BitVec 6}
      (ha : (s.slot pa).tag ≠ .empty) (hb : (s.slot pb).tag ≠ .empty)
      (hab : addTags msel (s.slot pa).tag (s.slot pb).tag = true) :
      SlotResult s (.add pd pa pb msel mbits) pd (s.slot pa).tag
        (addMod (modulus s.params msel mbits) (s.coeffs pa) (s.coeffs pb))
  | sub {pd pa pb : BitVec 8} {msel : BitVec 2} {mbits : BitVec 6}
      (ha : (s.slot pa).tag ≠ .empty) (hb : (s.slot pb).tag ≠ .empty)
      (hab : addTags msel (s.slot pa).tag (s.slot pb).tag = true) :
      SlotResult s (.sub pd pa pb msel mbits) pd (s.slot pa).tag
        (subMod (modulus s.params msel mbits) (s.coeffs pa) (s.coeffs pb))
  | scale {pd pa : BitVec 8} {imm32 : BitVec 32} (ha : (s.slot pa).tag = .coef ∨ (s.slot pa).tag = .ntt) :
      SlotResult s (.scale pd pa imm32) pd (s.slot pa).tag (scaleBy s.params.q imm32.toNat (s.coeffs pa))
  | ared {pd : BitVec 8} {msel : BitVec 2} {mbits : BitVec 6} :
      SlotResult s (.ared pd msel mbits) pd (modTag msel)
        (s.acc.map fun a => imod a.toInt (modulus s.params msel mbits))
  | snorm {pd pa : BitVec 8} (ha : (s.slot pa).tag = .coef) :
      SlotResult s (.snorm pd pa) pd .raw ((s.coeffs pa).map fun x => imod (signedRep s.params.q x) (2 ^ 32))
  | geta {pd : BitVec 8} {r c : BitVec 4} (hcfg : s.cfgValid = true) (hr : r.toNat < s.cfgM)
      (hc : c.toNat < s.cfgN) : SlotResult s (.geta pd r c) pd .ntt (natsOf (s.entry r.toNat c.toNat))
  | smpu {pd : BitVec 8} {k : BitVec 2} {sub : BitVec 4} {v : List Nat} {pos : Nat}
      (hv : sampleUniform s.params (s.streamOf k) s.budget (s.stream k).pos = some (v, pos)) :
      SlotResult s (.smpu pd k sub) pd (if sub = 0 then .coef else .ntt) v
  | smpg {pd : BitVec 8} {k : BitVec 2} {sub : BitVec 4} {v : List Nat} {pos : Nat}
      (hv : sampleGaussian s.params (if sub = 0 then s.sigma0 else s.sigma1) (s.streamOf k) s.budget
        (s.stream k).pos = some (v, pos)) :
      SlotResult s (.smpg pd k sub) pd .coef v
  | dect {ps aux8 : BitVec 8} {addr : BitVec 32} :
      SlotResult s (.dect ps aux8 addr) ps (auxTag aux8)
        ((decodeTernary s.params (Memory.readBytes s.bmem addr.toNat (szt s.params))).map
          fun t => imod t (auxModulus s.params aux8))
  | decb {ps aux8 : BitVec 8} {addr : BitVec 32} :
      SlotResult s (.decb ps aux8 addr) ps (auxTag aux8)
        ((decodeBinary s.params (Memory.readBytes s.bmem addr.toNat (szb s.params))).map Int.toNat)
  | deser {ps : BitVec 8} {bits : BitVec 6} {aux8 : BitVec 8} {addr : BitVec 32} {v : List Nat}
      (hv : v = deserialize s.params (Memory.readBytes s.bmem addr.toNat (packedLen s.params bits.toNat)) bits.toNat)
      (hq : aux8 = 0 ∨ allBelow s.params.q v = true) :
      SlotResult s (.deser ps bits aux8 addr) ps (deserTag aux8) v
  | comp {pd pa : BitVec 8} {bits : BitVec 6} {msel : BitVec 2} {mbits : BitVec 6}
      (ha : (s.slot pa).tag = modTag msel) :
      SlotResult s (.comp pd pa bits msel mbits) pd .raw
        ((s.coeffs pa).map fun x => compress x bits.toNat (modulus s.params msel mbits))
  | dcmp {pd pa : BitVec 8} {bits : BitVec 6} {msel : BitVec 2} {mbits : BitVec 6}
      (ha : (s.slot pa).tag = .raw) :
      SlotResult s (.dcmp pd pa bits msel mbits) pd (modTag msel)
        ((s.coeffs pa).map fun x => decompress x bits.toNat (modulus s.params msel mbits))
  | rdbl {pd pa : BitVec 8} {k : BitVec 2} (ha : (s.slot pa).tag = .coef) :
      SlotResult s (.rdbl pd pa k) pd .raw
        (randomizeDouble s.params.q (doubleWord (s.streamOf k) (s.stream k).pos) (s.coeffs pa))
  | xrnd {pd pa : BitVec 8} {msel : BitVec 2} {mbits : BitVec 6} (ha : (s.slot pa).tag = modTag msel) :
      SlotResult s (.xrnd pd pa msel mbits) pd .raw
        ((s.coeffs pa).map fun x => crossRound x (modulus s.params msel mbits))
  | recn {pd pa pb : BitVec 8} {msel : BitVec 2} {mbits : BitVec 6}
      (ha : (s.slot pa).tag = modTag msel) (hb : (s.slot pb).tag = .raw) :
      SlotResult s (.recn pd pa pb msel mbits) pd .raw
        (List.zipWith (fun w h => reconcile w h (modulus s.params msel mbits)) (s.coeffs pa) (s.coeffs pb))

/-- The first address and the length of each byte string written. -/
def rangesOf (outs : List (Nat × List Byte)) : List (Nat × Nat) := outs.map fun x => (x.1, x.2.length)

/-- What a command that ends without error has done to the state `s` of its checks, but for `STATE`. Of the bytes it
stores only the ranges are said. -/
inductive Effect (s : State) : Instr → State → Prop
  | nop : Effect s .nop s
  | ldcfg (h : s.cfgLegal = true) : Effect s .ldcfg { s with cfgValid := true }
  | clrerr : Effect s .clrerr s.clearError
  | slot {i : Instr} {pd : BitVec 8} {tag : Tag} {v : List Nat} (h : SlotResult s i pd tag v) :
      Effect s i (s.setSlot pd tag v)
  | sampleSlot {i : Instr} {pd : BitVec 8} {tag : Tag} {v : List Nat} (k : BitVec 2) (pos : Nat)
      (h : SlotResult s i pd tag v) : Effect s i ((s.seek k pos).setSlot pd tag v)
  | aclr : Effect s .aclr { s with acc := List.replicate s.params.d 0, accValid := true }
  | macs {pa pb : BitVec 8} (ha : (s.slot pa).tag ≠ .empty) (hb : (s.slot pb).tag ≠ .empty) :
      Effect s (.macs pa pb) { s with acc := macAcc s.acc (s.coeffs pa) (s.coeffs pb) }
  | xinita (k : BitVec 2) (len : BitVec 8) (addr : BitVec 32) :
      Effect s (.xinita k len addr)
        (s.setStream k { valid := true, kind := .a, seed := Memory.readBytes s.bmem addr.toNat len.toNat, pos := 0 })
  | xinits (k : BitVec 2) (len : BitVec 8) (addr : BitVec 32) :
      Effect s (.xinits k len addr)
        (s.setStream k { valid := true, kind := .s, seed := Memory.readBytes s.bmem addr.toNat len.toNat, pos := 0 })
  | store {i : Instr} (outs : List (Nat × List Byte)) (h : rangesOf outs = outputRanges i s) :
      Effect s i (s.output outs)
  | sampleStore {i : Instr} (k : BitVec 2) (pos : Nat) (outs : List (Nat × List Byte))
      (h : rangesOf outs = outputRanges i s) : Effect s i ((s.seek k pos).output outs)
  | setup {rows : List (List (List Nat))} (hcfg : s.cfgValid = true) (h : matrixRows s.setting s.seed = some rows) :
      Effect s .setup { s with amat := s.newMatrix rows, aValid := true, freeCtr := s.freeCtr + 1 }

/-- What a command does to the state whether or not it then raises an error (`60_exceptions.md` R160). -/
def prepOf : Instr → State → State
  | .ldcfg, s => { s with cfgValid := false }
  | .setup, s | .keygen, s | .encap, s | .enc, s | .decap, s | .dec, s => s.clearScratch
  | _, s => s

/-- The ways the run of a command can end. -/
inductive Ran (i : Instr) (s : State) : State → Prop
  | illegal (h : i.wellFormed s.params = false) : Ran i s (s.raise .illegalCommand (encode i))
  | ended {u : State} (hw : i.wellFormed s.params = true) (h : Effect (prepOf i s) i u) : Ran i s u.finish
  | raised (hw : i.wellFormed s.params = true) (e : ErrorKind) : Ran i s ((prepOf i s).raise e (encode i))
  | running (hw : i.wellFormed s.params = true) : Ran i s (s.keepRunning i)

/-- The run of a command ends in one of these ways if its body, where it ends without error, has its effect. -/
theorem ran_of_runCommand {i : Instr} {body : State → Result} {s t : State}
    (heff : ∀ u, body (prepOf i s) = .done u → Effect (prepOf i s) i u)
    (h : runCommand i (prepOf i) body s = .next t) : Ran i s t := by
  rcases runCommand_cases h with ⟨hw, ⟨u, hu, rfl⟩ | ⟨e, -, rfl⟩ | ⟨-, rfl⟩⟩ | ⟨hw, rfl⟩
  · exact .ended hw (heff u hu)
  · exact .raised hw e
  · exact .running hw
  · exact .illegal hw

section Effects
variable {s t : State}

/-! ### RingArith -/

theorem execNtt_ran {pd pa : BitVec 8} (h : execNtt pd pa s = .next t) : Ran (.ntt pd pa) s t := by
  refine ran_of_runCommand (fun u hu => ?_) h
  obtain ⟨-, ha, rfl⟩ := unarySlot_eq_done.mp hu
  exact .slot (.ntt (by simpa using ha))

theorem execIntt_ran {pd pa : BitVec 8} (h : execIntt pd pa s = .next t) : Ran (.intt pd pa) s t := by
  refine ran_of_runCommand (fun u hu => ?_) h
  obtain ⟨-, ha, rfl⟩ := unarySlot_eq_done.mp hu
  exact .slot (.intt (by simpa using ha))

theorem execMuln_ran {pd pa pb : BitVec 8} (h : execMuln pd pa pb s = .next t) : Ran (.muln pd pa pb) s t := by
  refine ran_of_runCommand (fun u hu => ?_) h
  obtain ⟨-, -, hab, rfl⟩ := binarySlot_eq_done.mp hu
  obtain ⟨ha, hb⟩ : (s.slot pa).tag = .ntt ∧ (s.slot pb).tag = .ntt := by simpa [prepOf] using hab
  exact .slot (.muln ha hb)

theorem execAdd_ran {pd pa pb : BitVec 8} {msel : BitVec 2} {mbits : BitVec 6}
    (h : execAdd pd pa pb msel mbits s = .next t) : Ran (.add pd pa pb msel mbits) s t := by
  refine ran_of_runCommand (fun u hu => ?_) h
  obtain ⟨ha, hb, hab, rfl⟩ := binarySlot_eq_done.mp hu
  exact .slot (.add ha hb hab)

theorem execSub_ran {pd pa pb : BitVec 8} {msel : BitVec 2} {mbits : BitVec 6}
    (h : execSub pd pa pb msel mbits s = .next t) : Ran (.sub pd pa pb msel mbits) s t := by
  refine ran_of_runCommand (fun u hu => ?_) h
  obtain ⟨ha, hb, hab, rfl⟩ := binarySlot_eq_done.mp hu
  exact .slot (.sub ha hb hab)

theorem execScale_ran {pd pa : BitVec 8} {imm32 : BitVec 32} (h : execScale pd pa imm32 s = .next t) :
    Ran (.scale pd pa imm32) s t := by
  refine ran_of_runCommand (fun u hu => ?_) h
  obtain ⟨-, ha, rfl⟩ := unarySlot_eq_done.mp hu
  exact .slot (.scale (by simpa using ha))

theorem execAclr_ran (h : execAclr s = .next t) : Ran .aclr s t := by
  refine ran_of_runCommand (fun u hu => ?_) h
  cases hu
  exact .aclr

theorem execMacs_ran {pa pb : BitVec 8} (h : execMacs pa pb s = .next t) : Ran (.macs pa pb) s t := by
  refine ran_of_runCommand (fun u hu => ?_) h
  simp only [require_eq_done, requireFull_eq_done] at hu
  obtain ⟨-, ha, hb, -, ⟨⟩⟩ := hu
  exact .macs ha hb

theorem execAred_ran {pd : BitVec 8} {msel : BitVec 2} {mbits : BitVec 6}
    (h : execAred pd msel mbits s = .next t) : Ran (.ared pd msel mbits) s t := by
  refine ran_of_runCommand (fun u hu => ?_) h
  obtain ⟨-, ⟨⟩⟩ := require_eq_done.mp hu
  exact .slot .ared

theorem execSnorm_ran {pd pa : BitVec 8} (h : execSnorm pd pa s = .next t) : Ran (.snorm pd pa) s t := by
  refine ran_of_runCommand (fun u hu => ?_) h
  obtain ⟨-, ha, rfl⟩ := unarySlot_eq_done.mp hu
  exact .slot (.snorm (by simpa using ha))

theorem execGeta_ran {pd : BitVec 8} {r c : BitVec 4} (h : execGeta pd r c s = .next t) :
    Ran (.geta pd r c) s t := by
  refine ran_of_runCommand (fun u hu => ?_) h
  simp only [requireConfig_eq_done, require_eq_done] at hu
  obtain ⟨hcfg, ⟨hr, hc⟩, -, ⟨⟩⟩ := hu
  exact .slot (.geta hcfg hr hc)

/-! ### Sampler -/

theorem execXinita_ran {k : BitVec 2} {len : BitVec 8} {addr : BitVec 32} (h : execXinita k len addr s = .next t) :
    Ran (.xinita k len addr) s t := by
  refine ran_of_runCommand (fun u hu => ?_) h
  obtain ⟨-, rfl⟩ := openStream_eq_done.mp hu
  exact .xinita k len addr

theorem execXinits_ran {k : BitVec 2} {len : BitVec 8} {addr : BitVec 32} (h : execXinits k len addr s = .next t) :
    Ran (.xinits k len addr) s t := by
  refine ran_of_runCommand (fun u hu => ?_) h
  obtain ⟨-, rfl⟩ := openStream_eq_done.mp hu
  exact .xinits k len addr

theorem execSmpu_ran {pd : BitVec 8} {k : BitVec 2} {sub : BitVec 4} (h : execSmpu pd k sub s = .next t) :
    Ran (.smpu pd k sub) s t := by
  refine ran_of_runCommand (fun u hu => ?_) h
  simp only [requireStream_eq_done, sampled_eq_done] at hu
  obtain ⟨-, v, pos, hv, rfl⟩ := hu
  exact .sampleSlot k pos (.smpu hv)

theorem execSmpg_ran {pd : BitVec 8} {k : BitVec 2} {sub : BitVec 4} (h : execSmpg pd k sub s = .next t) :
    Ran (.smpg pd k sub) s t := by
  refine ran_of_runCommand (fun u hu => ?_) h
  simp only [requireConfig_eq_done, requireStream_eq_done, sampled_eq_done] at hu
  obtain ⟨-, -, v, pos, hv, rfl⟩ := hu
  exact .sampleSlot k pos (.smpg hv)

theorem execSmpt_ran {k : BitVec 2} {addr : BitVec 32} (h : execSmpt k addr s = .next t) :
    Ran (.smpt k addr) s t := by
  refine ran_of_runCommand (fun u hu => ?_) h
  simp only [requireStream_eq_done, requireRange_eq_done, sampled_eq_done] at hu
  obtain ⟨-, -, b, pos, hb, rfl⟩ := hu
  exact .sampleStore k pos [(addr.toNat, b)]
    (by simp [rangesOf, outputRanges, prepOf, sampleTernary_length hb])

theorem execSmpb_ran {k : BitVec 2} {addr : BitVec 32} (h : execSmpb k addr s = .next t) :
    Ran (.smpb k addr) s t := by
  refine ran_of_runCommand (fun u hu => ?_) h
  simp only [requireStream_eq_done, requireRange_eq_done, sampled_eq_done, prepOf] at hu
  obtain ⟨-, -, b, pos, hb, rfl⟩ := hu
  have hlen := sampleBinary_length s.params (s.streamOf k) (s.stream k).pos
  rw [Option.some.inj hb] at hlen
  exact .sampleStore k pos [(addr.toNat, b)] (by simp [rangesOf, outputRanges, prepOf, hlen])

theorem execDect_ran {ps aux8 : BitVec 8} {addr : BitVec 32} (h : execDect ps aux8 addr s = .next t) :
    Ran (.dect ps aux8 addr) s t := by
  refine ran_of_runCommand (fun u hu => ?_) h
  simp only [requireRange_eq_done, require_eq_done] at hu
  obtain ⟨-, -, -, ⟨⟩⟩ := hu
  exact .slot .dect

theorem execDecb_ran {ps aux8 : BitVec 8} {addr : BitVec 32} (h : execDecb ps aux8 addr s = .next t) :
    Ran (.decb ps aux8 addr) s t := by
  refine ran_of_runCommand (fun u hu => ?_) h
  simp only [requireRange_eq_done, require_eq_done] at hu
  obtain ⟨-, -, ⟨⟩⟩ := hu
  exact .slot .decb

/-! ### Codec -/

theorem execSer_ran {ps : BitVec 8} {bits : BitVec 6} {addr : BitVec 32} (h : execSer ps bits addr s = .next t) :
    Ran (.ser ps bits addr) s t := by
  refine ran_of_runCommand (fun u hu => ?_) h
  simp only [requireFull_eq_done, requireRange_eq_done, require_eq_done] at hu
  obtain ⟨-, -, -, ⟨⟩⟩ := hu
  exact .store [(addr.toNat, serialize s.params (s.coeffs ps) bits.toNat)]
    (by simp [rangesOf, outputRanges, prepOf])

theorem execDeser_ran {ps : BitVec 8} {bits : BitVec 6} {aux8 : BitVec 8} {addr : BitVec 32}
    (h : execDeser ps bits aux8 addr s = .next t) : Ran (.deser ps bits aux8 addr) s t := by
  refine ran_of_runCommand (fun u hu => ?_) h
  simp only [requireRange_eq_done, require_eq_done] at hu
  obtain ⟨-, -, hq, ⟨⟩⟩ := hu
  exact .slot (.deser rfl hq)

theorem execComp_ran {pd pa : BitVec 8} {bits : BitVec 6} {msel : BitVec 2} {mbits : BitVec 6}
    (h : execComp pd pa bits msel mbits s = .next t) : Ran (.comp pd pa bits msel mbits) s t := by
  refine ran_of_runCommand (fun u hu => ?_) h
  obtain ⟨-, ha, rfl⟩ := unarySlot_eq_done.mp hu
  exact .slot (.comp (by simpa using ha))

theorem execDcmp_ran {pd pa : BitVec 8} {bits : BitVec 6} {msel : BitVec 2} {mbits : BitVec 6}
    (h : execDcmp pd pa bits msel mbits s = .next t) : Ran (.dcmp pd pa bits msel mbits) s t := by
  refine ran_of_runCommand (fun u hu => ?_) h
  obtain ⟨-, ha, rfl⟩ := unarySlot_eq_done.mp hu
  exact .slot (.dcmp (by simpa using ha))

theorem execRdbl_ran {pd pa : BitVec 8} {k : BitVec 2} (h : execRdbl pd pa k s = .next t) :
    Ran (.rdbl pd pa k) s t := by
  refine ran_of_runCommand (fun u hu => ?_) h
  simp only [requireFull_eq_done, requireStream_eq_done, require_eq_done] at hu
  obtain ⟨-, -, ha, ⟨⟩⟩ := hu
  exact .sampleSlot k _ (.rdbl ha)

theorem execXrnd_ran {pd pa : BitVec 8} {msel : BitVec 2} {mbits : BitVec 6}
    (h : execXrnd pd pa msel mbits s = .next t) : Ran (.xrnd pd pa msel mbits) s t := by
  refine ran_of_runCommand (fun u hu => ?_) h
  obtain ⟨-, ha, rfl⟩ := unarySlot_eq_done.mp hu
  exact .slot (.xrnd (by simpa using ha))

theorem execRecn_ran {pd pa pb : BitVec 8} {msel : BitVec 2} {mbits : BitVec 6}
    (h : execRecn pd pa pb msel mbits s = .next t) : Ran (.recn pd pa pb msel mbits) s t := by
  refine ran_of_runCommand (fun u hu => ?_) h
  simp only [requireFull_eq_done, require_eq_done] at hu
  obtain ⟨-, -, ⟨ha, hb⟩, -, ⟨⟩⟩ := hu
  exact .slot (.recn ha hb)

/-! ### Protocol -/

theorem execSetup_ran (h : execSetup s = .next t) : Ran .setup s t := by
  refine ran_of_runCommand (fun u hu => ?_) h
  simp only [requireSeed_eq_done, requireRange_eq_done] at hu
  obtain ⟨hcfg, -, -, hu⟩ := hu
  split at hu <;> cases hu
  exact .setup hcfg ‹_›

theorem execKeygen_ran (h : execKeygen s = .next t) : Ran .keygen s t := by
  refine ran_of_runCommand (fun u hu => ?_) h
  simp only [requireSeed_eq_done, requireMatrix_eq_done, requireRange_eq_done] at hu
  obtain ⟨-, -, -, -, -, -, hu⟩ := hu
  split at hu <;> cases hu
  obtain ⟨hpk, hsk⟩ := keygen_length ‹_›
  exact .store _ (by simp only [rangesOf, List.map, hpk, hsk, outputRanges])

theorem execEncap_ran (h : execEncap s = .next t) : Ran .encap s t := by
  refine ran_of_runCommand (fun u hu => ?_) h
  simp only [requireSeed_eq_done, requireMatrix_eq_done, requireRange_eq_done, require_eq_done] at hu
  obtain ⟨-, -, -, -, -, -, -, -, -, -, hu⟩ := hu
  split at hu <;> cases hu
  obtain ⟨hsct, hhint, hkey⟩ := encap_length ‹_›
  exact .store _ (by simp only [rangesOf, List.map, hsct, hhint, hkey, outputRanges]; rfl)

theorem execEnc_ran (h : execEnc s = .next t) : Ran .enc s t := by
  refine ran_of_runCommand (fun u hu => ?_) h
  simp only [requireSeed_eq_done, requireMatrix_eq_done, requireRange_eq_done, require_eq_done] at hu
  obtain ⟨-, -, -, -, -, -, -, -, -, -, -, hu⟩ := hu
  split at hu <;> cases hu
  obtain ⟨hsct, hcts⟩ := enc_length ‹_›
  exact .store _ (by simp only [rangesOf, List.map, hsct, hcts, outputRanges])

theorem requireDecap_done {n : Nat} {k : Result} {u : State} (h : requireDecap s n k = .done u) : k = .done u := by
  simp only [requireDecap, requireConfig_eq_done, requireRange_eq_done, require_eq_done] at h
  obtain ⟨-, -, -, -, -, -, -, -, -, hk⟩ := h
  exact hk

theorem execDecap_ran (h : execDecap s = .next t) : Ran .decap s t := by
  refine ran_of_runCommand (fun u hu => ?_) h
  cases requireDecap_done hu
  exact .store _ (by simp only [rangesOf, List.map, decap_length, outputRanges]; rfl)

theorem execDec_ran (h : execDec s = .next t) : Ran .dec s t := by
  refine ran_of_runCommand (fun u hu => ?_) h
  cases requireDecap_done hu
  exact .store _ (by simp only [rangesOf, List.map, dec_length, outputRanges]; rfl)

/-! ### System -/

theorem execNop_ran (h : execNop s = .next t) : Ran .nop s t := by
  refine ran_of_runCommand (fun u hu => ?_) h
  cases hu
  exact .nop

theorem execLdcfg_ran (h : execLdcfg s = .next t) : Ran .ldcfg s t := by
  refine ran_of_runCommand (fun u hu => ?_) h
  obtain ⟨hlegal, ⟨⟩⟩ := require_eq_done.mp hu
  exact .ldcfg hlegal

/-- `CLRERR` always ends, and returns from the error state. -/
theorem execClrerr_eq (s : State) : execClrerr s = .next s.clearError.finish := rfl

theorem execClrerr_ran (h : execClrerr s = .next t) : Ran .clrerr s t := by
  refine ran_of_runCommand (fun u hu => ?_) h
  cases hu
  exact .clrerr

end Effects

/-- Every command ends in one of the ways of `Ran`. -/
theorem exec_ran {i : Instr} {s t : State} (h : exec i s = .next t) : Ran i s t := by
  cases i with
  | nop => exact execNop_ran h
  | ldcfg => exact execLdcfg_ran h
  | clrerr => exact execClrerr_ran h
  | ntt => exact execNtt_ran h
  | intt => exact execIntt_ran h
  | muln => exact execMuln_ran h
  | add => exact execAdd_ran h
  | sub => exact execSub_ran h
  | scale => exact execScale_ran h
  | aclr => exact execAclr_ran h
  | macs => exact execMacs_ran h
  | ared => exact execAred_ran h
  | snorm => exact execSnorm_ran h
  | geta => exact execGeta_ran h
  | xinita => exact execXinita_ran h
  | xinits => exact execXinits_ran h
  | smpu => exact execSmpu_ran h
  | smpt => exact execSmpt_ran h
  | smpb => exact execSmpb_ran h
  | dect => exact execDect_ran h
  | decb => exact execDecb_ran h
  | smpg => exact execSmpg_ran h
  | ser => exact execSer_ran h
  | deser => exact execDeser_ran h
  | comp => exact execComp_ran h
  | dcmp => exact execDcmp_ran h
  | rdbl => exact execRdbl_ran h
  | xrnd => exact execXrnd_ran h
  | recn => exact execRecn_ran h
  | setup => exact execSetup_ran h
  | keygen => exact execKeygen_ran h
  | encap => exact execEncap_ran h
  | enc => exact execEnc_ran h
  | decap => exact execDecap_ran h
  | dec => exact execDec_ran h

end Sys2Proof.Machine
end

section
/-! SUPPORT. What a command never does: the frame of an effect and of a run, and the bytes it leaves alone. -/

namespace Sys2Proof.Machine

/-- Scratch clearing and the clearing of `CFG_VALID` are all that happens before a command's checks. -/
theorem prepOf_frame (i : Instr) (s : State) :
    prepOf i s = { s with
      slots := (prepOf i s).slots, accValid := (prepOf i s).accValid, xs := (prepOf i s).xs,
      cfgValid := (prepOf i s).cfgValid } := by
  cases i <;> rfl

theorem prepOf_cases (i : Instr) (s : State) :
    prepOf i s = s ∨ prepOf i s = s.clearScratch ∨ i = .ldcfg ∧ prepOf i s = { s with cfgValid := false } := by
  cases i
  case ldcfg => exact .inr (.inr ⟨rfl, rfl⟩)
  case setup | keygen | encap | enc | decap | dec => exact .inr (.inl rfl)
  all_goals exact .inl rfl

theorem prepOf_cfgValid {i : Instr} (h : i ≠ .ldcfg) (s : State) : (prepOf i s).cfgValid = s.cfgValid := by
  rcases prepOf_cases i s with hp | hp | ⟨hi, -⟩
  · rw [hp]
  · rw [hp]; rfl
  · exact absurd hi h

/-- The ranges a command writes do not depend on the scratch. -/
theorem outputRanges_prepOf (i : Instr) (s : State) : outputRanges i (prepOf i s) = outputRanges i s := by
  cases i <;> rfl

/-- What no command writes, between two states. -/
structure HostStateKept (s t : State) : Prop where
  params : t.params = s.params
  cfg0 : t.cfg0 = s.cfg0
  sigma0 : t.sigma0 = s.sigma0
  sigma1 : t.sigma1 = s.sigma1
  inLen : t.inLen = s.inLen
  args : t.args = s.args
  cmdCnt : t.cmdCnt = s.cmdCnt
  port : t.port = s.port

theorem HostStateKept.trans {s t u : State} (h : HostStateKept s t) (h' : HostStateKept t u) : HostStateKept s u :=
  ⟨h'.params.trans h.params, h'.cfg0.trans h.cfg0, h'.sigma0.trans h.sigma0, h'.sigma1.trans h.sigma1,
    h'.inLen.trans h.inLen, h'.args.trans h.args, h'.cmdCnt.trans h.cmdCnt, h'.port.trans h.port⟩

theorem prepOf_hostStateKept (i : Instr) (s : State) : HostStateKept s (prepOf i s) := by
  rw [prepOf_frame]
  constructor <;> rfl

section Effect
variable {i : Instr} {s u : State}

theorem Effect.hostStateKept (h : Effect s i u) : HostStateKept s u := by
  cases h <;> constructor <;> rfl

theorem Effect.matrix (h : Effect s i u) (hi : i ≠ .setup) : u.amat = s.amat ∧ u.aValid = s.aValid := by
  cases h
  case setup => exact absurd rfl hi
  all_goals exact ⟨rfl, rfl⟩

theorem Effect.cfgValid (h : Effect s i u) (hi : i ≠ .ldcfg) : u.cfgValid = s.cfgValid := by
  cases h
  case ldcfg => exact absurd rfl hi
  all_goals rfl

/-- Only `CLRERR` writes the error registers without raising, and it clears them. -/
theorem Effect.errorRegisters (h : Effect s i u) :
    (u.errCode = s.errCode ∧ u.errInfo = s.errInfo) ∨ (u.errCode = 0 ∧ u.errInfo = 0) := by
  cases h
  case clrerr => exact .inr ⟨rfl, rfl⟩
  all_goals exact .inl ⟨rfl, rfl⟩

end Effect

/-! ### Bytes -/

theorem Memory.SameOutside.refl (m : Memory) (ranges : List (Nat × Nat)) : Memory.SameOutside m m ranges :=
  fun _ _ => rfl

/-- Byte strings stored one after the other change only the bytes of their ranges. -/
theorem sameOutside_output (m : Memory) (outs : List (Nat × List Byte)) :
    Memory.SameOutside m (outs.foldl (fun m x => Memory.writeBytes m x.1 x.2) m) (rangesOf outs) := by
  intro a ha
  induction outs generalizing m with
  | nil => rfl
  | cons x rest ih =>
    have hx : ¬within (x.1, x.2.length) a := ha _ (by simp [rangesOf])
    have hrest := ih (Memory.writeBytes m x.1 x.2) fun r hr => ha r (by simp_all [rangesOf])
    rw [List.foldl_cons, hrest, Memory.read_writeBytes_outside]
    simp only [within] at hx
    omega

theorem Effect.sameOutside {i : Instr} {s u : State} (h : Effect s i u) :
    Memory.SameOutside s.bmem u.bmem (outputRanges i s) := by
  cases h with
  | store outs hr => exact hr ▸ sameOutside_output s.bmem outs
  | sampleStore k pos outs hr => exact hr ▸ sameOutside_output s.bmem outs
  | nop | ldcfg | clrerr | slot | sampleSlot | aclr | macs | xinita | xinits | setup => exact .refl _ _

/-! ### Runs -/

section Ran
variable {i : Instr} {s t : State}

theorem Ran.hostStateKept (h : Ran i s t) : HostStateKept s t := by
  have hprep := prepOf_hostStateKept i s
  cases h with
  | illegal => constructor <;> rfl
  | ended _ he => exact (hprep.trans he.hostStateKept).trans (by constructor <;> rfl)
  | raised => exact hprep.trans (by constructor <;> rfl)
  | running => constructor <;> rfl

theorem Ran.matrix (h : Ran i s t) (hi : i ≠ .setup) : t.amat = s.amat ∧ t.aValid = s.aValid := by
  have hprep : (prepOf i s).amat = s.amat ∧ (prepOf i s).aValid = s.aValid := by
    rw [prepOf_frame]
    exact ⟨rfl, rfl⟩
  cases h with
  | illegal | running => exact ⟨rfl, rfl⟩
  | raised => exact hprep
  | ended _ he =>
    obtain ⟨ham, hav⟩ := he.matrix hi
    exact ⟨ham.trans hprep.1, hav.trans hprep.2⟩

theorem Ran.cfgValid (h : Ran i s t) (hi : i ≠ .ldcfg) : t.cfgValid = s.cfgValid := by
  have hprep := prepOf_cfgValid hi s
  cases h with
  | illegal | running => rfl
  | raised => exact hprep
  | ended _ he => exact (he.cfgValid hi).trans hprep

theorem prepOf_bmem (i : Instr) (s : State) : (prepOf i s).bmem = s.bmem := by rw [prepOf_frame]

theorem Ran.sameOutside (h : Ran i s t) : Memory.SameOutside s.bmem t.bmem (outputRanges i s) := by
  cases h with
  | illegal | running => exact .refl _ _
  | raised => rw [State.raise_bmem, prepOf_bmem]; exact .refl _ _
  | ended _ he =>
    have hs := he.sameOutside
    rwa [outputRanges_prepOf, prepOf_bmem] at hs

theorem Ran.bmem_of_ne_idle (h : Ran i s t) (ht : t.phase ≠ .idle) : t.bmem = s.bmem := by
  cases h with
  | illegal | running => rfl
  | raised => exact prepOf_bmem i s
  | ended => exact absurd rfl ht

end Ran

/-- Settles O52: the frame of every run, from the frame of every effect. -/
theorem untouchedState : Obligations.UntouchedState := by
  unfold Obligations.UntouchedState
  intro i s t h
  have hr := exec_ran h
  obtain ⟨hparams, hcfg0, hsigma0, hsigma1, hinLen, hargs, hcmdCnt, hport⟩ := hr.hostStateKept
  exact ⟨hcfg0, hsigma0, hsigma1, hinLen, hargs, hcmdCnt, hparams, hport, hr.matrix, hr.cfgValid, hr.sameOutside,
    hr.bmem_of_ne_idle⟩

end Sys2Proof.Machine
end

section
/-! SUPPORT. What a step can do, said once: the host's action on its port, or the engine's own move. -/

namespace Sys2Proof.Machine

/-- What the next step carries out (log 4): the host's next action, or nothing of the host's. -/
def State.action (s : State) : HostAction := s.port.headD .wait

/-- The state in which it is carried out. -/
def State.popped (s : State) : State := { s with port := s.port.tail }

theorem step_eq_hostPort (s : State) : step s = hostPort s.action s.popped := by
  unfold step advance
  split
  · rename_i hp
    have hs : s.popped = s := by
      rw [State.popped, hp]
      exact congrArg (fun p => { s with port := p }) hp.symm
    simp [State.action, hp, hs, hostPort]
  · rename_i x rest hp
    simp [State.action, State.popped, hp]

/-- What the host's action can do to the state in which it is carried out. -/
inductive Moves (s : State) : HostAction → State → Prop
  /-- in `IDLE` a command is accepted and run -/
  | accepted {w : Cmd} {i : Instr} {t : State} (hp : s.phase = .idle) (h : Ran i s.accept t) : Moves s (.command w) t
  /-- in `IDLE` an illegal word is accepted and raises -/
  | rejected {w : Cmd} (hp : s.phase = .idle) : Moves s (.command w) (s.accept.raise .illegalCommand w)
  /-- in `ERROR` the `CLRERR` word is accepted -/
  | cleared (hp : s.phase = .error) : Moves s (.command clrerrWord) s.accept.clearError.finish
  /-- any other word is dropped -/
  | dropped {w : Cmd} (hp : s.phase ≠ .idle) (hw : ¬(s.phase = .error ∧ w = clrerrWord)) : Moves s (.command w) s
  | csrWrite {n : BitVec 6} {v : Word} (hp : s.phase ≠ .busy) : Moves s (.csrWrite n v) (s.csrStore n v)
  | csrWriteDropped {n : BitVec 6} {v : Word} (hp : s.phase = .busy) : Moves s (.csrWrite n v) s
  | csrRead {n : BitVec 6} : Moves s (.csrRead n) { s with csrData := s.csrValue n }
  | bmemWrite {a : BitVec 32} {b : Byte} (hp : s.phase ≠ .busy) (ha : a.toNat < s.params.bmemBytes) :
      Moves s (.bmemWrite a b) { s with bmem := Memory.write s.bmem a.toNat b }
  | bmemWriteDropped {a : BitVec 32} {b : Byte} (hp : s.phase = .busy) : Moves s (.bmemWrite a b) s
  | bmemRead {a : BitVec 32} (b : Byte) (n : Nat) : Moves s (.bmemRead a) { s with bmemData := b, freeCtr := n }
  | reset (bytes : List Host.Cell) :
      Moves s (.reset bytes)
        { State.launch s.params (Memory.ofBytes s.params.bmemBytes bytes) with
          port := s.port, csrData := s.csrData, bmemData := s.bmemData, freeCtr := s.freeCtr }
  /-- in `BUSY` the engine makes another attempt at the command in flight -/
  | attempt {f : Flight} {t : State} (hp : s.phase = .busy) (hf : s.flight = some f) (h : Ran f.instr s t) :
      Moves s .wait t
  | quiet : Moves s .wait s

theorem commandPort_moves {w : Cmd} {s t : State} (h : commandPort w s = .next t) : Moves s (.command w) t := by
  unfold commandPort at h
  split at h
  · rename_i hp
    cases h
    exact .dropped (by simp [hp]) (by simp [hp])
  · rename_i hp
    split at h
    · subst w
      cases (execClrerr_eq s.accept).symm.trans h
      exact .cleared hp
    · rename_i hw
      cases h
      exact .dropped (by simp [hp]) (by simp [hw])
  · rename_i hp
    split at h
    · exact .accepted hp (exec_ran h)
    · cases h
      exact .rejected hp

theorem hostPort_moves {x : HostAction} {s t : State} (h : hostPort x s = .next t) : Moves s x t := by
  cases x with
  | command w => exact commandPort_moves h
  | csrWrite n v =>
    simp only [hostPort, csrWritePort] at h
    split at h <;> cases h
    · exact .csrWriteDropped ‹_›
    · exact .csrWrite (by simp_all)
    · exact .csrWrite (by simp_all)
  | csrRead n =>
    cases h
    exact .csrRead
  | bmemWrite a b =>
    simp only [hostPort, bmemWritePort] at h
    split at h
    · cases h
      exact .bmemWriteDropped ‹_›
    all_goals
      split at h <;> cases h
      exact .bmemWrite (by simp_all) ‹_›
  | bmemRead a =>
    simp only [hostPort, bmemReadPort] at h
    split at h
    · cases h
      exact .bmemRead _ _
    all_goals
      split at h <;> cases h
      exact .bmemRead _ s.freeCtr
  | reset bytes =>
    cases h
    exact .reset bytes
  | wait =>
    simp only [hostPort, enginePort] at h
    split at h
    · exact .attempt ‹_› ‹_› (exec_ran h)
    · cases h
      exact .quiet

/-- Every step that gives a next state is one of these moves. -/
theorem step_moves {s t : State} (h : step s = .next t) : Moves s.popped s.action t :=
  hostPort_moves (step_eq_hostPort s ▸ h)

/-- What the next step does when the host's next action is `x`. -/
theorem step_offer (s : State) (x : HostAction) : step (s.offer x) = hostPort x s := rfl

/-- A write to a control register changes registers of the session and nothing else. -/
theorem csrStore_frame (s : State) (n : BitVec 6) (v : Word) :
    s.csrStore n v = { s with
      cfgValid := (s.csrStore n v).cfgValid, aValid := (s.csrStore n v).aValid, cfg0 := (s.csrStore n v).cfg0,
      sigma0 := (s.csrStore n v).sigma0, sigma1 := (s.csrStore n v).sigma1, inLen := (s.csrStore n v).inLen,
      args := (s.csrStore n v).args } := by
  unfold State.csrStore
  split <;> rfl

section CsrStore
variable (s : State) (n : BitVec 6) (v : Word)

@[simp] theorem csrStore_params : (s.csrStore n v).params = s.params := by rw [csrStore_frame]
@[simp] theorem csrStore_slots : (s.csrStore n v).slots = s.slots := by rw [csrStore_frame]
@[simp] theorem csrStore_acc : (s.csrStore n v).acc = s.acc := by rw [csrStore_frame]
@[simp] theorem csrStore_amat : (s.csrStore n v).amat = s.amat := by rw [csrStore_frame]
@[simp] theorem csrStore_xs : (s.csrStore n v).xs = s.xs := by rw [csrStore_frame]
@[simp] theorem csrStore_phase : (s.csrStore n v).phase = s.phase := by rw [csrStore_frame]
@[simp] theorem csrStore_errCode : (s.csrStore n v).errCode = s.errCode := by rw [csrStore_frame]
@[simp] theorem csrStore_errInfo : (s.csrStore n v).errInfo = s.errInfo := by rw [csrStore_frame]
@[simp] theorem csrStore_cmdCnt : (s.csrStore n v).cmdCnt = s.cmdCnt := by rw [csrStore_frame]
@[simp] theorem csrStore_flight : (s.csrStore n v).flight = s.flight := by rw [csrStore_frame]

end CsrStore

/-- `CMDCNT` after a host's action (`10_state.md` R37). -/
def cmdCntAfter (s : State) : HostAction → Word
  | .command w => if s.phase = .idle ∨ s.phase = .error ∧ w = clrerrWord then s.cmdCnt + 1 else s.cmdCnt
  | .reset _ => 0
  | .csrWrite _ _ | .csrRead _ | .bmemWrite _ _ | .bmemRead _ | .wait => s.cmdCnt

theorem Moves.cmdCnt {s : State} {x : HostAction} {t : State} (h : Moves s x t) : t.cmdCnt = cmdCntAfter s x := by
  cases h with
  | accepted hp hr =>
    rw [hr.hostStateKept.cmdCnt]
    simp [cmdCntAfter, hp]
  | rejected hp => simp [cmdCntAfter, hp]
  | cleared hp => simp [cmdCntAfter, hp]
  | dropped hp hw => exact (if_neg (not_or.mpr ⟨hp, hw⟩)).symm
  | csrWrite => exact csrStore_cmdCnt ..
  | attempt _ _ hr => exact hr.hostStateKept.cmdCnt
  | csrWriteDropped | csrRead | bmemWrite | bmemWriteDropped | bmemRead | reset | quiet => rfl

/-- Settles O8: acceptance and reset are the only moves that change `CMDCNT`, as every run leaves it alone. -/
theorem acceptedCommandsAreCounted : Obligations.AcceptedCommandsAreCounted := by
  unfold Obligations.AcceptedCommandsAreCounted
  intro s t h
  rw [(step_moves h).cmdCnt, State.action]
  cases s.port with
  | nil => rfl
  | cons x rest => cases x <;> rfl

end Sys2Proof.Machine
end

section
/-! SUPPORT. The lengths and the bounds of what the commands compute: a polynomial has `D` coefficients, and those of
the ring modulo `Q` lie below `Q`. -/

namespace Sys2Proof.Machine

theorem legal_q_pos {p : Params} (h : p.Legal) : 0 < p.q := h.q_prime.pos

theorem legal_d_eq {p : Params} (h : p.Legal) : p.d = 2 ^ logD p := by
  obtain ⟨l, -, hd⟩ := h.d_pow
  rw [logD, hd, Nat.log2_two_pow]

/-! ### Bounds of lists -/

theorem forall_mem_zipWith {α β γ : Type} {P : γ → Prop} {f : α → β → γ} (h : ∀ a b, P (f a b)) (l : List α)
    (l' : List β) : ∀ x ∈ List.zipWith f l l', P x := by
  rw [← List.map_uncurry_zip_eq_zipWith]
  simp only [List.mem_map]
  rintro _ ⟨⟨a, b⟩, -, rfl⟩
  exact h a b

/-! ### The transforms -/

theorem length_fwdButterfly (q z : Nat) {lo hi : List Nat} {n : Nat} (hlo : lo.length = n) (hhi : hi.length = n) :
    (fwdButterfly q z lo hi).length = 2 * n := by
  simp only [fwdButterfly, List.length_append, List.length_zipWith, List.length_map, hlo, hhi]
  omega

theorem length_invButterfly (q z : Nat) {lo hi : List Nat} {n : Nat} (hlo : lo.length = n) (hhi : hi.length = n) :
    (invButterfly q z lo hi).length = 2 * n := by
  simp only [invButterfly, List.length_append, List.length_zipWith, hlo, hhi]
  omega

section Blocks
variable (p : Params) (len : Nat)

theorem length_fwdBlocks (blocks k : Nat) (f : List Nat) (h : f.length = 2 * len * blocks) :
    (fwdBlocks p len blocks k f).length = f.length := by
  induction blocks generalizing k f with
  | zero => simp [fwdBlocks, h]
  | succ b ih =>
    rw [Nat.mul_succ] at h
    rw [fwdBlocks, List.length_append,
      length_fwdButterfly _ _ (n := len) (by rw [List.length_take]; omega)
        (by rw [List.length_take, List.length_drop]; omega),
      ih _ _ (by rw [List.length_drop]; omega), List.length_drop]
    omega

theorem length_invBlocks (blocks k : Nat) (f : List Nat) (h : f.length = 2 * len * blocks) :
    (invBlocks p len blocks k f).length = f.length := by
  induction blocks generalizing k f with
  | zero => simp [invBlocks, h]
  | succ b ih =>
    rw [Nat.mul_succ] at h
    rw [invBlocks, List.length_append,
      length_invButterfly _ _ (n := len) (by rw [List.length_take]; omega)
        (by rw [List.length_take, List.length_drop]; omega),
      ih _ _ (by rw [List.length_drop]; omega), List.length_drop]
    omega

end Blocks

theorem length_fwdLayers (p : Params) (n i : Nat) (f : List Nat) (hd : p.d = 2 ^ (i + n)) (hf : f.length = p.d) :
    (fwdLayers p n i f).length = p.d := by
  induction n generalizing i f with
  | zero => exact hf
  | succ n ih =>
    have hspan : p.d / 2 ^ (i + 1) = 2 ^ n := by
      rw [hd, Nat.pow_div (by omega) (by omega)]
      congr 1
      omega
    have hblocks : f.length = 2 * 2 ^ n * 2 ^ i := by
      rw [hf, hd]
      ring
    rw [fwdLayers, hspan]
    exact ih _ _ (by rw [hd]; congr 1; omega) ((length_fwdBlocks _ _ _ _ _ hblocks).trans hf)

theorem length_invLayers (p : Params) (n len k : Nat) (f : List Nat) (hlen : 0 < len) (hd : p.d = len * 2 ^ n)
    (hf : f.length = p.d) : (invLayers p n len k f).length = p.d := by
  induction n generalizing len k f with
  | zero => exact hf
  | succ n ih =>
    have hd' : p.d = 2 * len * 2 ^ n := by
      rw [hd]
      ring
    have hblocks : p.d / (2 * len) = 2 ^ n := by rw [hd', Nat.mul_div_cancel_left _ (by omega)]
    rw [invLayers, hblocks]
    exact ih _ _ _ (by omega) hd' ((length_invBlocks _ _ _ _ _ (hf.trans hd')).trans hf)

/-- `NTTF` gives `D` coefficients. -/
theorem length_nttf {p : Params} (hp : p.Legal) {f : List Nat} (hf : f.length = p.d) : (nttf p f).length = p.d :=
  length_fwdLayers p _ 0 f (by rw [Nat.zero_add]; exact legal_d_eq hp) hf

/-- `NTTI` gives `D` coefficients. -/
theorem length_ntti {p : Params} (hp : p.Legal) {f : List Nat} (hf : f.length = p.d) : (ntti p f).length = p.d := by
  rw [ntti, List.length_map]
  exact length_invLayers p _ 1 _ f (by omega) (by rw [Nat.one_mul]; exact legal_d_eq hp) hf

theorem fwdBlocks_lt {p : Params} (hq : 0 < p.q) (len blocks k : Nat) (f : List Nat) :
    ∀ x ∈ fwdBlocks p len blocks k f, x < p.q := by
  induction blocks generalizing k f with
  | zero => simp [fwdBlocks]
  | succ b ih =>
    intro x hx
    simp only [fwdBlocks, fwdButterfly, List.mem_append] at hx
    rcases hx with (hx | hx) | hx
    · exact forall_mem_zipWith (P := (· < p.q)) (fun _ _ => Nat.mod_lt _ hq) _ _ x hx
    · exact forall_mem_zipWith (P := (· < p.q)) (fun _ _ => imod_lt _ hq) _ _ x hx
    · exact ih _ _ x hx

theorem fwdLayers_lt {p : Params} (hq : 0 < p.q) (n i : Nat) (f : List Nat) (hf : ∀ x ∈ f, x < p.q) :
    ∀ x ∈ fwdLayers p n i f, x < p.q := by
  induction n generalizing i f with
  | zero => exact hf
  | succ n ih => exact ih _ _ (fwdBlocks_lt hq _ _ _ _)

/-! ### The schoolbook product -/

theorem length_mulX (g : List Int) : (mulX g).length = g.length := by
  unfold mulX
  split
  · simp_all
  · rename_i hlast
    have hne : g ≠ [] := by
      rintro rfl
      simp at hlast
    have hpos := List.length_pos_iff.mpr hne
    rw [List.length_cons, List.length_dropLast]
    omega

theorem length_polyMulAdd {acc f g : List Int} (h : g.length = acc.length) :
    (polyMulAdd acc f g).length = acc.length := by
  induction f generalizing acc g with
  | nil => rfl
  | cons a f ih =>
    have hz : (List.zipWith (fun c x => c + a * x) acc g).length = acc.length := by simp [h]
    rw [polyMulAdd, ih (by rw [length_mulX, hz, h]), hz]

theorem length_macAcc {acc : List AccCell} {f g : List Nat} (h : g.length = acc.length) :
    (macAcc acc f g).length = acc.length := by
  rw [macAcc, List.length_map, length_polyMulAdd (by simpa using h), List.length_map]

theorem length_randomizeDouble (q : Nat) (word : Nat → Nat) (v : List Nat) :
    (randomizeDouble q word v).length = v.length := by
  unfold randomizeDouble
  rw [List.length_map, List.length_zipIdx]

/-! ### Small secrets -/

theorem le_mul_ceilDiv (a : Nat) {b : Nat} (hb : 0 < b) : a ≤ ceilDiv a b * b := by
  have h1 := Nat.div_add_mod (a + b - 1) b
  have h2 := Nat.mod_lt (a + b - 1) hb
  have h3 : ceilDiv a b * b = b * ((a + b - 1) / b) := Nat.mul_comm _ _
  omega

/-- The signed digits, one map. (The model's text makes the integers of the digits with the list monad.) -/
theorem decodeTernary_eq_map (p : Params) (b : List Byte) :
    decodeTernary p b = ((b.flatMap trits).take p.d).map fun g : Nat => (g : Int) - 1 := by
  simp [decodeTernary, List.map_eq_flatMap, List.flatMap_assoc]

theorem decodeBinary_eq_map (p : Params) (b : List Byte) :
    decodeBinary p b = ((b.flatMap fun x => digits 1 8 x.toNat).take p.d).map Int.ofNat := by
  simp [decodeBinary, List.map_eq_flatMap]

theorem length_decodeTernary {p : Params} {b : List Byte} (h : b.length = szt p) :
    (decodeTernary p b).length = p.d := by
  have hlen : (b.flatMap trits).length = szt p * 5 := by
    rw [length_flatMap_of_forall (n := 5) (by simp [trits]), h]
  have := le_mul_ceilDiv p.d (b := 5) (by omega)
  simp only [decodeTernary_eq_map, List.length_map, List.length_take, hlen, szt]
  omega

theorem length_decodeBinary {p : Params} {b : List Byte} (h : b.length = szb p) :
    (decodeBinary p b).length = p.d := by
  have hlen : (b.flatMap fun b => digits 1 8 b.toNat).length = szb p * 8 := by
    rw [length_flatMap_of_forall (n := 8) (by simp), h]
  have := le_mul_ceilDiv p.d (b := 8) (by omega)
  simp only [decodeBinary_eq_map, List.length_map, List.length_take, hlen, szb]
  omega

/-- The bits of a binary secret. -/
theorem decodeBinary_toNat_lt_two (p : Params) (b : List Byte) :
    ∀ x ∈ (decodeBinary p b).map Int.toNat, x < 2 := by
  intro x hx
  simp only [decodeBinary_eq_map, List.map_map, List.mem_map, Function.comp_apply, Int.ofNat_eq_natCast,
    Int.toNat_natCast] at hx
  obtain ⟨g, hg, rfl⟩ := hx
  obtain ⟨c, -, hc⟩ := List.mem_flatMap.mp (List.mem_of_mem_take hg)
  exact digits_lt 1 8 _ g hc

/-- `SampleGaussian` gives residues modulo `Q` (`42_sampler.md` R110). -/
theorem sampleGaussian_lt {p : Params} (hq : 0 < p.q) {sigma : Word} {st : Nat → Byte} {budget pos : Nat}
    {v : List Nat} {pos' : Nat} (h : sampleGaussian p sigma st budget pos = some (v, pos')) : ∀ x ∈ v, x < p.q := by
  intro x hx
  obtain ⟨k, hk⟩ := collect_mem h x hx
  simp only [drawGaussian] at hk
  split at hk
  · cases hk
  · simp only [List.mem_cons, List.not_mem_nil, or_false] at hk
    rcases hk with rfl | rfl <;> exact imod_lt _ hq

/-! ### The matrix -/

/-- The entries `SETUP` samples are uniform polynomials. -/
theorem matrixRows_mem {g : Setting} {seed : List Byte} {rows : List (List (List Nat))}
    (h : matrixRows g seed = some rows) :
    ∀ row ∈ rows, ∀ f ∈ row, f.length = g.p.d ∧ ∀ x ∈ f, x < g.p.q := by
  intro row hrow f hf
  obtain ⟨i, -, hi⟩ := allSome_map_mem h row hrow
  obtain ⟨j, -, hj⟩ := allSome_map_mem hi f hf
  obtain ⟨⟨v, pos⟩, hv, rfl⟩ := Option.map_eq_some_iff.mp hj
  exact ⟨sampleUniform_length hv, sampleUniform_lt hv⟩

@[simp] theorem length_newMatrix (s : State) (rows : List (List (List Nat))) :
    (s.newMatrix rows).length = s.params.maxdim * s.params.maxdim := by
  simp [State.newMatrix]

/-- An entry of the new matrix is a sampled one or free values below `Q` (log 8). -/
theorem newMatrix_mem {s : State} {rows : List (List (List Nat))} {f : Poly} (hf : f ∈ s.newMatrix rows) :
    (∃ row ∈ rows, ∃ v ∈ row, f = cellsOf v) ∨
      ∃ v : List Nat, v.length = s.params.d ∧ (0 < s.params.q → ∀ x ∈ v, x < s.params.q) ∧ f = cellsOf v := by
  obtain ⟨k, -, rfl⟩ := List.mem_map.mp hf
  split
  · rename_i v hv
    obtain ⟨row, hrow, hv⟩ := Option.bind_eq_some_iff.mp hv
    exact .inl ⟨row, List.mem_of_getElem? hrow, v, List.mem_of_getElem? hv, rfl⟩
  · refine .inr ⟨(List.range s.params.d).map fun j =>
      Config.freeCoef s.freeCtr (k / s.params.maxdim) (k % s.params.maxdim) j % s.params.q, by simp, ?_, ?_⟩
    · exact fun hq => List.forall_mem_map.mpr fun _ _ => Nat.mod_lt _ hq
    · simp [cellsOf, Function.comp_def]

end Sys2Proof.Machine
end

section
/-! SUPPORT. The invariants of the data, update by update: the sizes of the register files (`10_state.md` R21, R24 to
R26), the residues (R23, R25). -/

namespace Sys2Proof.Machine

/-- A slot that is not `EMPTY` is one of the register file. -/
theorem slot_mem {s : State} {n : BitVec 8} (h : (s.slot n).tag ≠ .empty) : s.slot n ∈ s.slots := by
  unfold State.slot at h ⊢
  rw [List.getD_eq_getElem?_getD] at h ⊢
  cases hn : s.slots[n.toNat]? with
  | none => simp [hn] at h
  | some x => exact List.mem_of_getElem? hn

/-! ### Sizes -/

section Shape
variable {s : State}

theorem coeffs_length (hs : s.ShapeOk) {n : BitVec 8} (h : (s.slot n).tag ≠ .empty) :
    (s.coeffs n).length = s.params.d := by
  obtain ⟨-, hslots, -⟩ := hs
  rw [State.coeffs, length_natsOf]
  exact hslots _ (slot_mem h)

/-- A matrix entry inside the configuration is one of the store. -/
theorem entry_mem (hs : s.ShapeOk) {r c : Nat} (hr : r < s.params.maxdim) (hc : c < s.params.maxdim) :
    s.entry r c ∈ s.amat := by
  obtain ⟨-, -, -, hamat, -⟩ := hs
  have hplace : r * s.params.maxdim + c < s.amat.length := by
    rw [hamat]
    calc r * s.params.maxdim + c < (r + 1) * s.params.maxdim := by rw [Nat.succ_mul]; omega
      _ ≤ s.params.maxdim * s.params.maxdim := Nat.mul_le_mul_right _ hr
  rw [State.entry, List.getD_eq_getElem?_getD, List.getElem?_eq_getElem hplace]
  exact List.getElem_mem hplace

theorem cfgLegal_dims (h : s.cfgLegal = true) : s.cfgM ≤ s.params.maxdim ∧ s.cfgN ≤ s.params.maxdim := by
  simp only [State.cfgLegal, Bool.and_eq_true, decide_eq_true_eq] at h
  omega

theorem shapeOk_setSlot (hs : s.ShapeOk) {v : List Nat} (hv : v.length = s.params.d) (n : BitVec 8) (tag : Tag) :
    (s.setSlot n tag v).ShapeOk := by
  obtain ⟨hnum, hslots, hrest⟩ := hs
  refine ⟨by simpa using hnum, fun x hx => ?_, hrest⟩
  rcases List.mem_or_eq_of_mem_set hx with hx | rfl
  · exact hslots x hx
  · simpa using hv

theorem shapeOk_setStream (hs : s.ShapeOk) {x : StreamCtx} (hx : x.seed.length ≤ 255) (k : BitVec 2) :
    (s.setStream k x).ShapeOk := by
  obtain ⟨hnum, hslots, hacc, hamat, hentries, hseeds⟩ := hs
  refine ⟨hnum, hslots, hacc, hamat, hentries, fun j => ?_⟩
  have hj := hseeds j
  simp only [State.setStream_xs, Fin.getElem_fin, Vector.getElem_set] at hj ⊢
  split
  · exact hx
  · exact hj

theorem shapeOk_seek (hs : s.ShapeOk) (k : BitVec 2) (pos : Nat) : (s.seek k pos).ShapeOk := by
  obtain ⟨-, -, -, -, -, hseeds⟩ := id hs
  exact shapeOk_setStream (x := { s.stream k with pos := pos }) hs (hseeds ⟨k.toNat, k.isLt⟩) k

theorem shapeOk_clearScratch (hs : s.ShapeOk) : s.clearScratch.ShapeOk := by
  obtain ⟨hnum, hslots, hacc, hamat, hentries, hseeds⟩ := hs
  refine ⟨by simpa using hnum, ?_, hacc, hamat, hentries, fun k => by simpa using hseeds k⟩
  rw [State.clearScratch_slots, List.forall_mem_map]
  exact hslots

theorem shapeOk_prepOf (hs : s.ShapeOk) (i : Instr) : (prepOf i s).ShapeOk := by
  rcases prepOf_cases i s with hp | hp | ⟨-, hp⟩ <;> rw [hp]
  · exact hs
  · exact shapeOk_clearScratch hs
  · exact hs

theorem shapeOk_newMatrix (hs : s.ShapeOk) {rows : List (List (List Nat))}
    (h : matrixRows s.setting s.seed = some rows) (v : Bool) (n : Nat) :
    ({ s with amat := s.newMatrix rows, aValid := v, freeCtr := n } : State).ShapeOk := by
  obtain ⟨hnum, hslots, hacc, -, -, hseeds⟩ := hs
  refine ⟨hnum, hslots, hacc, length_newMatrix s rows, fun f hf => ?_, hseeds⟩
  rcases newMatrix_mem hf with ⟨row, hrow, v, hv, rfl⟩ | ⟨v, hlen, -, rfl⟩
  · rw [length_cellsOf]
    exact (matrixRows_mem h row hrow v hv).1
  · rw [length_cellsOf, hlen]

/-- Every command computes `D` coefficients for a slot. -/
theorem SlotResult.length {i : Instr} {pd : BitVec 8} {tag : Tag} {v : List Nat} (h : SlotResult s i pd tag v)
    (hp : s.params.Legal) (hc : s.cfgValid = true → s.cfgLegal = true) (hs : s.ShapeOk) :
    v.length = s.params.d := by
  have coeffs_of {n : BitVec 8} {t : Tag} (ht : (s.slot n).tag = t) (hne : t ≠ .empty) :
      (s.coeffs n).length = s.params.d := coeffs_length hs (ht ▸ hne)
  have modTag_ne (msel : BitVec 2) : modTag msel ≠ .empty := by unfold modTag; split <;> simp
  cases h with
  | ntt ha => exact length_nttf hp (coeffs_of ha (by simp))
  | intt ha => exact length_ntti hp (coeffs_of ha (by simp))
  | muln ha hb => simp [mulPointwise, coeffs_of ha (by simp), coeffs_of hb (by simp)]
  | add ha hb => simp [addMod, coeffs_length hs ha, coeffs_length hs hb]
  | sub ha hb => simp [subMod, coeffs_length hs ha, coeffs_length hs hb]
  | @scale _ pa _ ha =>
    have hne : (s.slot pa).tag ≠ .empty := by rcases ha with ha | ha <;> simp [ha]
    simp [scaleBy, coeffs_length hs hne]
  | ared =>
    obtain ⟨-, -, hacc, -⟩ := hs
    simpa using hacc
  | snorm ha => simp [coeffs_of ha (by simp)]
  | geta hcfg hr hcol =>
    obtain ⟨hm, hn⟩ := cfgLegal_dims (hc hcfg)
    have hmem := entry_mem hs (hr.trans_le hm) (hcol.trans_le hn)
    obtain ⟨-, -, -, -, hentries, -⟩ := hs
    rw [length_natsOf]
    exact hentries _ hmem
  | smpu hv => exact sampleUniform_length hv
  | smpg hv => exact sampleGaussian_length hv
  | dect => simp [length_decodeTernary]
  | decb => simp [length_decodeBinary]
  | deser hv => simp [hv]
  | comp ha => simp [coeffs_of ha (modTag_ne _)]
  | dcmp ha => simp [coeffs_of ha (by simp)]
  | rdbl ha => rw [length_randomizeDouble, coeffs_of ha (by simp)]
  | xrnd ha => simp [coeffs_of ha (modTag_ne _)]
  | recn ha hb => simp [coeffs_of ha (modTag_ne _), coeffs_of hb (by simp)]

theorem Effect.shapeOk {i : Instr} {u : State} (h : Effect s i u) (hp : s.params.Legal)
    (hc : s.cfgValid = true → s.cfgLegal = true) (hs : s.ShapeOk) : u.ShapeOk := by
  cases h with
  | nop | ldcfg | clrerr | store => exact hs
  | slot hr => exact shapeOk_setSlot hs (hr.length hp hc hs) _ _
  | sampleSlot k pos hr => exact shapeOk_setSlot (shapeOk_seek hs k pos) (hr.length hp hc hs) _ _
  | aclr =>
    obtain ⟨hnum, hslots, -, hrest⟩ := hs
    exact ⟨hnum, hslots, List.length_replicate, hrest⟩
  | macs ha hb =>
    have hlen := coeffs_length hs hb
    obtain ⟨hnum, hslots, hacc, hrest⟩ := hs
    exact ⟨hnum, hslots, (length_macAcc (hlen.trans hacc.symm)).trans hacc, hrest⟩
  | xinita k len addr => exact shapeOk_setStream hs (by rw [Memory.length_readBytes]; omega) k
  | xinits k len addr => exact shapeOk_setStream hs (by rw [Memory.length_readBytes]; omega) k
  | sampleStore k pos => exact shapeOk_seek hs k pos
  | setup _ hrows => exact shapeOk_newMatrix hs hrows _ _

theorem prepOf_cfgLegal_of_cfgValid (hc : s.cfgValid = true → s.cfgLegal = true) (i : Instr) :
    (prepOf i s).cfgValid = true → (prepOf i s).cfgLegal = true := by
  rcases prepOf_cases i s with hp | hp | ⟨-, hp⟩ <;> rw [hp]
  · exact hc
  · exact hc
  · simp

theorem Ran.shapeOk {i : Instr} {t : State} (h : Ran i s t) (hp : s.params.Legal)
    (hc : s.cfgValid = true → s.cfgLegal = true) (hs : s.ShapeOk) : t.ShapeOk := by
  have hprep := shapeOk_prepOf hs i
  cases h with
  | illegal | running => exact hs
  | raised => exact hprep
  | ended _ he =>
    have hp' : (prepOf i s).params.Legal := (prepOf_hostStateKept i s).params ▸ hp
    exact he.shapeOk hp' (prepOf_cfgLegal_of_cfgValid hc i) hprep

end Shape

/-- The register files right after reset have their sizes. -/
theorem shapeOk_launch (p : Params) (m : Memory) : (State.launch p m).ShapeOk := by
  refine ⟨by simp [State.launch], ?_, by simp [State.launch], by simp [State.launch], ?_, ?_⟩
  · intro x hx
    rw [List.eq_of_mem_replicate hx]
    simp [Slot.blank, State.launch]
  · intro f hf
    rw [List.eq_of_mem_replicate hf]
    simp [State.launch]
  · intro k
    simp [State.launch, StreamCtx.closed]

theorem Moves.shapeOk {s t : State} {x : HostAction} (h : Moves s x t) (hp : s.params.Legal) (hc : s.ConfigOk)
    (hs : s.ShapeOk) : t.ShapeOk ∧ t.params = s.params := by
  obtain ⟨hcfg, -⟩ := hc
  cases h with
  | accepted _ hr => exact ⟨hr.shapeOk hp hcfg hs, hr.hostStateKept.params⟩
  | attempt _ _ hr => exact ⟨hr.shapeOk hp hcfg hs, hr.hostStateKept.params⟩
  | csrWrite => exact ⟨by simpa [State.ShapeOk] using hs, csrStore_params ..⟩
  | reset bytes => exact ⟨shapeOk_launch s.params (Memory.ofBytes s.params.bmemBytes bytes), rfl⟩
  | rejected | cleared | dropped | csrWriteDropped | csrRead | bmemWrite | bmemWriteDropped | bmemRead | quiet =>
    exact ⟨hs, rfl⟩

/-- Settles O55: every move keeps the sizes, as every effect of a command does. -/
theorem shapeKept : Obligations.ShapeKept := by
  unfold Obligations.ShapeKept
  intro s t hp hc hs h
  exact (step_moves h).shapeOk hp hc hs

/-! ### Residues -/

section Residues
variable {s : State}

theorem coeffs_lt (hs : s.ResiduesOk) {n : BitVec 8} (h : (s.slot n).tag = .coef ∨ (s.slot n).tag = .ntt) :
    ∀ x ∈ s.coeffs n, x < s.params.q := by
  obtain ⟨hslots, -⟩ := hs
  have hmem : s.slot n ∈ s.slots := slot_mem (by rcases h with h | h <;> simp [h])
  exact List.forall_mem_map.mpr (hslots _ hmem h)

theorem entry_lt (hs : s.ResiduesOk) (r c : Nat) : ∀ x ∈ natsOf (s.entry r c), x < s.params.q := by
  obtain ⟨-, hamat⟩ := hs
  refine List.forall_mem_map.mpr ?_
  rw [State.entry, List.getD_eq_getElem?_getD]
  cases hn : s.amat[r * s.params.maxdim + c]? with
  | none => simp
  | some f => exact hamat f (List.mem_of_getElem? hn)

/-- Numbers below a bound stay below it in cells. -/
theorem cellsOf_lt {v : List Nat} {q : Nat} (hv : ∀ x ∈ v, x < q) : ∀ c ∈ cellsOf v, c.toNat < q := by
  refine List.forall_mem_map.mpr fun x hx => ?_
  rw [BitVec.toNat_ofNat]
  exact (Nat.mod_le _ _).trans_lt (hv x hx)

/-- Under the tag `COEF` the modulus selected is `Q` (`00_scope.md` R18). -/
theorem modulus_of_modTag (p : Params) {msel : BitVec 2} (mbits : BitVec 6)
    (h : modTag msel = .coef ∨ modTag msel = .ntt) : modulus p msel mbits = p.q := by
  unfold modTag at h
  split at h
  · simp [modulus, *]
  · simp at h

/-- `ADD` and `SUB` take `COEF` and `NTT` sources under the modulus `Q` only. -/
theorem modulus_of_addTags (p : Params) {msel : BitVec 2} (mbits : BitVec 6) {ta tb : Tag}
    (h : addTags msel ta tb = true) (ht : ta = .coef ∨ ta = .ntt) : modulus p msel mbits = p.q := by
  unfold addTags at h
  split at h
  · simp [modulus, *]
  · rcases ht with rfl | rfl <;> simp at h

/-- What a command puts into a slot under the tag `COEF` or `NTT` lies below `Q`. -/
theorem SlotResult.lt {i : Instr} {pd : BitVec 8} {tag : Tag} {v : List Nat} (h : SlotResult s i pd tag v)
    (hp : s.params.Legal) (hs : s.ResiduesOk) (ht : tag = .coef ∨ tag = .ntt) : ∀ x ∈ v, x < s.params.q := by
  have hq := legal_q_pos hp
  cases h with
  | ntt ha => exact fwdLayers_lt hq _ _ _ (coeffs_lt hs (.inl ha))
  | intt | scale => exact List.forall_mem_map.mpr fun _ _ => Nat.mod_lt _ hq
  | muln => exact forall_mem_zipWith (P := (· < s.params.q)) (fun _ _ => Nat.mod_lt _ hq) _ _
  | add _ _ hab =>
    rw [modulus_of_addTags _ _ hab ht]
    exact forall_mem_zipWith (P := (· < s.params.q)) (fun _ _ => Nat.mod_lt _ hq) _ _
  | sub _ _ hab =>
    rw [modulus_of_addTags _ _ hab ht]
    exact forall_mem_zipWith (P := (· < s.params.q)) (fun _ _ => imod_lt _ hq) _ _
  | ared =>
    rw [modulus_of_modTag _ _ ht]
    exact List.forall_mem_map.mpr fun _ _ => imod_lt _ hq
  | dcmp =>
    rw [modulus_of_modTag _ _ ht]
    exact List.forall_mem_map.mpr fun _ _ => Nat.mod_lt _ hq
  | geta => exact entry_lt hs _ _
  | smpu hv => exact sampleUniform_lt hv
  | smpg hv => exact sampleGaussian_lt hq hv
  | @dect _ aux8 =>
    have haux : auxModulus s.params aux8 = s.params.q := by
      unfold auxTag at ht
      split at ht
      · exact if_pos ‹_›
      · simp at ht
    rw [haux]
    exact List.forall_mem_map.mpr fun _ _ => imod_lt _ hq
  | decb => exact fun x hx => (decodeBinary_toNat_lt_two _ _ x hx).trans_le hp.q_prime.two_le
  | deser _ hbelow =>
    rcases hbelow with rfl | hbelow
    · simp [deserTag] at ht
    · simpa [allBelow] using hbelow
  | snorm | comp | rdbl | xrnd | recn => simp at ht

theorem residuesOk_setSlot (hs : s.ResiduesOk) {tag : Tag} {v : List Nat}
    (hv : tag = .coef ∨ tag = .ntt → ∀ x ∈ v, x < s.params.q) (n : BitVec 8) : (s.setSlot n tag v).ResiduesOk := by
  obtain ⟨hslots, hamat⟩ := hs
  refine ⟨fun x hx ht => ?_, hamat⟩
  rcases List.mem_or_eq_of_mem_set hx with hx | rfl
  · exact hslots x hx ht
  · exact cellsOf_lt (hv ht)

theorem residuesOk_newMatrix (hs : s.ResiduesOk) (hp : s.params.Legal) {rows : List (List (List Nat))}
    (h : matrixRows s.setting s.seed = some rows) (v : Bool) (n : Nat) :
    ({ s with amat := s.newMatrix rows, aValid := v, freeCtr := n } : State).ResiduesOk := by
  obtain ⟨hslots, -⟩ := hs
  refine ⟨hslots, fun f hf => ?_⟩
  rcases newMatrix_mem hf with ⟨row, hrow, v, hv, rfl⟩ | ⟨v, -, hlt, rfl⟩
  · exact cellsOf_lt (matrixRows_mem h row hrow v hv).2
  · exact cellsOf_lt (hlt (legal_q_pos hp))

theorem residuesOk_prepOf (hs : s.ResiduesOk) (i : Instr) : (prepOf i s).ResiduesOk := by
  rcases prepOf_cases i s with hp | hp | ⟨-, hp⟩ <;> rw [hp]
  · exact hs
  · obtain ⟨-, hamat⟩ := hs
    exact ⟨List.forall_mem_map.mpr fun x _ ht => by simp at ht, hamat⟩
  · exact hs

theorem Effect.residuesOk {i : Instr} {u : State} (h : Effect s i u) (hp : s.params.Legal) (hs : s.ResiduesOk) :
    u.ResiduesOk := by
  cases h with
  | slot hr => exact residuesOk_setSlot hs (hr.lt hp hs) _
  | sampleSlot k pos hr => exact residuesOk_setSlot (s := s.seek k pos) hs (hr.lt hp hs) _
  | setup _ hrows => exact residuesOk_newMatrix hs hp hrows _ _
  | nop | ldcfg | clrerr | aclr | macs | xinita | xinits | store | sampleStore => exact hs

theorem Ran.residuesOk {i : Instr} {t : State} (h : Ran i s t) (hp : s.params.Legal) (hs : s.ResiduesOk) :
    t.ResiduesOk := by
  have hprep := residuesOk_prepOf hs i
  cases h with
  | illegal | running => exact hs
  | raised => exact hprep
  | ended _ he => exact he.residuesOk ((prepOf_hostStateKept i s).params ▸ hp) hprep

end Residues

/-- Right after reset no slot is tagged, and the matrix is 0. -/
theorem residuesOk_launch {p : Params} (hq : 0 < p.q) (m : Memory) : (State.launch p m).ResiduesOk := by
  refine ⟨fun x hx ht => ?_, fun f hf c hc => ?_⟩
  · rw [List.eq_of_mem_replicate hx, Slot.blank_tag] at ht
    simp at ht
  · rw [List.eq_of_mem_replicate hf] at hc
    rw [List.eq_of_mem_replicate hc]
    exact hq

theorem Moves.residuesOk {s t : State} {x : HostAction} (h : Moves s x t) (hp : s.params.Legal) (hs : s.ResiduesOk) :
    t.ResiduesOk := by
  cases h with
  | accepted _ hr => exact hr.residuesOk hp hs
  | attempt _ _ hr => exact hr.residuesOk hp hs
  | csrWrite => simpa [State.ResiduesOk] using hs
  | reset bytes => exact residuesOk_launch (legal_q_pos hp) (Memory.ofBytes s.params.bmemBytes bytes)
  | rejected | cleared | dropped | csrWriteDropped | csrRead | bmemWrite | bmemWriteDropped | bmemRead | quiet =>
    exact hs

/-- Settles O56: every move keeps the residues below `Q`, as what a command puts under `COEF` or `NTT` is reduced. -/
theorem residuesKept : Obligations.ResiduesKept := by
  unfold Obligations.ResiduesKept
  intro s t hp hs h
  exact (step_moves h).residuesOk hp hs

/-! ### Error registers -/

/-- The code of an error is from 1 to 6 (`60_exceptions.md` R161). -/
theorem code_range (e : ErrorKind) : 1 ≤ e.code.toNat ∧ e.code.toNat ≤ 6 := by
  cases e <;> decide

theorem errorOk_raise (s : State) (e : ErrorKind) (w : Cmd) : (s.raise e w).ErrorOk :=
  ⟨fun _ => code_range e, fun h => absurd rfl h, by simp, rfl⟩

theorem errorOk_finish {s : State} (h : s.errCode = 0 ∧ s.errInfo = 0) : s.finish.ErrorOk :=
  ⟨by simp, fun _ => h, by simp, rfl⟩

/-- A command that starts with the error registers at 0 ends, or runs on, with them right. -/
theorem Ran.errorOk {i : Instr} {s t : State} (h : Ran i s t) (hs : s.errCode = 0 ∧ s.errInfo = 0) : t.ErrorOk := by
  cases h with
  | illegal | raised => exact errorOk_raise _ _ _
  | running hw => exact ⟨by simp, fun _ => hs, by simp, by simpa using hw⟩
  | ended _ he =>
    refine errorOk_finish ?_
    rcases he.errorRegisters with ⟨hcode, hinfo⟩ | hclear
    · rw [hcode, hinfo, prepOf_frame]
      exact hs
    · exact hclear

theorem errorOk_launch (p : Params) (m : Memory) : (State.launch p m).ErrorOk :=
  ⟨by simp [State.launch], fun _ => ⟨rfl, rfl⟩, by simp [State.launch], rfl⟩

theorem Moves.errorOk {s t : State} {x : HostAction} (h : Moves s x t) (hs : s.ErrorOk) : t.ErrorOk := by
  obtain ⟨-, hclear, -⟩ := id hs
  cases h with
  | accepted hp hr => exact hr.errorOk (hclear (by simp [hp]))
  | attempt hp _ hr => exact hr.errorOk (hclear (by simp [hp]))
  | rejected => exact errorOk_raise _ _ _
  | cleared => exact errorOk_finish ⟨rfl, rfl⟩
  | csrWrite => simpa [State.ErrorOk] using hs
  | reset bytes => exact errorOk_launch s.params (Memory.ofBytes s.params.bmemBytes bytes)
  | dropped | csrWriteDropped | csrRead | bmemWrite | bmemWriteDropped | bmemRead | quiet => exact hs

/-- While `ERROR` lasts the error registers keep their values: the only move out of it that runs a command is the
one of `CLRERR`, which ends in `IDLE`. -/
theorem Moves.errorRegisters {s t : State} {x : HostAction} (h : Moves s x t) (hp : s.phase = .error)
    (ht : t.phase = .error) : t.errCode = s.errCode ∧ t.errInfo = s.errInfo := by
  cases h with
  | accepted hp' | rejected hp' | attempt hp' => simp [hp] at hp'
  | cleared | reset => simp [State.launch] at ht
  | csrWrite => exact ⟨csrStore_errCode .., csrStore_errInfo ..⟩
  | dropped | csrWriteDropped | csrRead | bmemWrite | bmemWriteDropped | bmemRead | quiet => exact ⟨rfl, rfl⟩

/-- Settles O57: every move keeps the error registers right, and unchanged while `ERROR` lasts. -/
theorem errorRegistersKept : Obligations.ErrorRegistersKept := by
  unfold Obligations.ErrorRegistersKept
  intro s t hs h
  have hm := step_moves h
  exact ⟨hm.errorOk hs, hm.errorRegisters⟩

end Sys2Proof.Machine
end

section
/-! SUPPORT. The control registers read and written by the host (`10_state.md` R29, R36 to R40), and the state right
after reset (R43). -/

namespace Sys2Proof.Machine

/-! ### Reads -/

theorem step_csrRead (s : State) (n : BitVec 6) :
    step (s.offer (.csrRead n)) = .next { s with csrData := s.csrValue n } := rfl

theorem step_csrWrite_of_busy {s : State} (h : s.phase = .busy) (n : BitVec 6) (v : Word) :
    step (s.offer (.csrWrite n v)) = .next s := by
  simp [step_offer, hostPort, csrWritePort, h]

theorem step_csrWrite {s : State} (h : s.phase ≠ .busy) (n : BitVec 6) (v : Word) :
    step (s.offer (.csrWrite n v)) = .next (s.csrStore n v) := by
  rw [step_offer, hostPort, csrWritePort]
  split
  · exact absurd ‹_› h
  · rfl
  · rfl

/-- The fields of `STATUS` (R38). -/
theorem status_toNat (s : State) :
    s.status.toNat = (match s.phase with | .idle => 0 | .busy => 1 | .error => 2) + 2 ^ 4 * s.cfgValid.toNat +
      2 ^ 5 * s.aValid.toNat + 2 ^ 6 * s.accValid.toNat := by
  unfold State.status
  cases s.phase <;> cases s.cfgValid <;> cases s.aValid <;> cases s.accValid <;> rfl

/-- The place of an `ARG` register in the map. -/
theorem eq_of_toNat_arg {n : BitVec 6} {k : Fin 12} (h : n.toNat = 0x10 + k.val) : n = BitVec.ofNat 6 (0x10 + k.val) := by
  rw [← h, BitVec.ofNat_toNat, BitVec.setWidth_eq]

theorem csrValue_arg (s : State) {n : BitVec 6} {k : Fin 12} (h : n.toNat = 0x10 + k.val) :
    s.csrValue n = s.args[k] := by
  obtain rfl := eq_of_toNat_arg h
  fin_cases k <;> rfl

theorem csrStore_arg (s : State) {n : BitVec 6} (v : Word) {k : Fin 12} (h : n.toNat = 0x10 + k.val) :
    s.csrStore n v = { s with args := s.args.set k v } := by
  obtain rfl := eq_of_toNat_arg h
  fin_cases k <;> rfl

/-- An unmapped number reads 0 (R40). -/
theorem csrValue_unmapped (s : State) {n : BitVec 6} (h : n = 0x05 ∨ n = 0x0F ∨ 0x1C ≤ n.toNat) :
    s.csrValue n = 0 := by
  rcases h with rfl | rfl | h
  · rfl
  · rfl
  · unfold State.csrValue
    split
    case h_27 => rfl
    all_goals omega

/-- A write to a read-only or to an unmapped number is ignored (R40). -/
theorem csrStore_ignored (s : State) {n : BitVec 6} (v : Word)
    (h : n.toNat ≤ 0x07 ∨ 0x0C ≤ n.toNat ∧ n.toNat ≤ 0x0F ∨ 0x1C ≤ n.toNat) : s.csrStore n v = s := by
  unfold State.csrStore
  split
  case h_17 => rfl
  all_goals omega

/-- Settles O9: a write outside `BUSY` is a store to the register of its number. -/
theorem hostWritesControlRegisters : Obligations.HostWritesControlRegisters := by
  unfold Obligations.HostWritesControlRegisters
  intro s n v
  refine ⟨step_csrRead s n, fun h => step_csrWrite_of_busy h n v, fun h => ?_⟩
  rw [step_csrWrite h]
  refine ⟨?_, ?_, ?_, ?_, fun k hk => congrArg _ (csrStore_arg s v hk)⟩ <;> (rintro rfl; rfl)

/-- A parameter register reads as its parameter in 32 bits. -/
theorem csrValue_toNat {s : State} {n m : BitVec 6} {x : Nat} (h : s.csrValue m = BitVec.ofNat 32 x) (hn : n = m) :
    (s.csrValue n).toNat = x % 2 ^ 32 := by
  rw [hn, h, BitVec.toNat_ofNat]

/-- Every register but the constants reads 0 after reset (R43). -/
theorem csrValue_reset : ∀ n : BitVec 6, n ≠ 0x00 → n ≠ 0x06 → n ≠ 0x07 → n ≠ 0x0C → n ≠ 0x0D → n ≠ 0x0E →
    State.reset.csrValue n = 0 := by
  intro n h00 h06 h07 h0C h0D h0E
  unfold State.csrValue
  split
  case h_1 | h_6 | h_7 | h_12 | h_13 | h_14 => bv_omega
  all_goals rfl

/-- Settles O10: register by register of the map. -/
theorem controlRegisterMap : Obligations.ControlRegisterMap := by
  unfold Obligations.ControlRegisterMap
  refine ⟨fun s n => ⟨s.csrValue n, step_csrRead s n, ?_⟩, csrValue_reset⟩
  exact ⟨congrArg s.csrValue, fun hn => hn ▸ status_toNat s, congrArg s.csrValue, congrArg s.csrValue,
    congrArg s.csrValue, csrValue_toNat rfl, csrValue_toNat rfl, congrArg s.csrValue, congrArg s.csrValue,
    congrArg s.csrValue, congrArg s.csrValue, csrValue_toNat rfl, csrValue_toNat rfl, csrValue_toNat rfl,
    fun k hk => csrValue_arg s hk, csrValue_unmapped s,
    fun hp hn x => (step_csrWrite hp n x).trans (congrArg _ (csrStore_ignored s x hn))⟩

/-! ### Reset -/

theorem legal_default : Params.default.Legal where
  d_pow := ⟨8, by decide, by decide⟩
  q_prime := by norm_num [Params.default]
  q_odd := by decide
  q_lt := by decide
  q_mod := by decide
  psi_pos := by decide
  psi_lt := by decide
  psi_root := by decide
  npoly_pos := by decide
  npoly_le := by decide
  maxdim_pos := by decide
  maxdim_le := by decide
  bmem_pos := by decide
  bmem_le := by decide

theorem slot_launch_tag (p : Params) (m : Memory) (n : BitVec 8) : ((State.launch p m).slot n).tag = .empty := by
  by_contra h
  rw [List.eq_of_mem_replicate (slot_mem h)] at h
  exact h rfl

theorem stream_launch (p : Params) (m : Memory) (k : BitVec 2) : (State.launch p m).stream k = StreamCtx.closed := by
  simp [State.launch, State.stream]

theorem configOk_launch (p : Params) (m : Memory) : (State.launch p m).ConfigOk := by
  simp [State.ConfigOk, State.launch]

/-- With legal parameters the machine starts sound, whatever `BMEM` holds. -/
theorem sound_launch {p : Params} {m : Memory} (hp : p.Legal) (hm : Memory.wf m) (hin : ∀ x ∈ m, x.1 < p.bmemBytes) :
    (State.launch p m).Sound where
  legal := hp
  memory := ⟨hm, hin⟩
  config := configOk_launch p m
  shape := shapeOk_launch p m
  residues := residuesOk_launch (legal_q_pos hp) m

/-- Settles O58: the default parameters are legal, and legal parameters start with the invariants. -/
theorem invariantsAtReset : Obligations.InvariantsAtReset := by
  unfold Obligations.InvariantsAtReset
  exact ⟨sound_launch legal_default State.reset_bmem_wf (by simp), errorOk_launch _ _,
    fun p m hp hm hin => ⟨sound_launch hp hm hin, errorOk_launch p m⟩⟩

theorem zeta_default :
    [0, 1, 2, 3, 4, 255].map (zeta Params.default) = [1, 20791006, 6356706, 19867748, 11836922, 19329455] := by
  decide

/-- Settles O13: what stands in the register files after reset, and the registers and the table by evaluation. -/
theorem resetState : Obligations.ResetState := by
  unfold Obligations.ResetState
  refine ⟨slot_launch_tag _ _, List.length_replicate, rfl, rfl, fun k => congrArg _ (stream_launch _ _ k), rfl, rfl,
    rfl, rfl, rfl, rfl, rfl, rfl, rfl, rfl, fun k => ?_, rfl, rfl, rfl, rfl, rfl, rfl, rfl, zeta_default⟩
  simp [State.reset, State.launch]

end Sys2Proof.Machine
end

section
/-! SUPPORT. `BMEM` through every step: a memory inside its size read byte by byte, the ranges a command writes lie
inside `BMEM` (`20_memory.md` R45, R46), and the host's port to it (R52). -/

namespace Sys2Proof.Machine

/-! ### The canonical form and the size -/

/-- In the canonical form a listed byte is the byte read. -/
theorem Memory.read_of_mem {m : Memory} (hm : Memory.wf m) {x : Host.Cell} (hx : x ∈ m) :
    Memory.read m x.1 = x.2 := by
  induction m with
  | nil => cases hx
  | cons y rest ih =>
    obtain ⟨hsorted, hfill⟩ := hm
    obtain ⟨hy, hrest⟩ := List.pairwise_cons.mp hsorted
    rw [Memory.read, lookup_cell]
    rcases List.mem_cons.mp hx with rfl | hx
    · simp
    · rw [if_neg (hy x hx).ne']
      exact ih ⟨hrest, fun z hz => hfill z (List.mem_cons_of_mem _ hz)⟩ hx

/-- A canonical memory lists no address from `n` on exactly if every byte there reads as an unlisted one. -/
theorem Memory.forall_lt_iff_read {m : Memory} (hm : Memory.wf m) (n : Nat) :
    (∀ x ∈ m, x.1 < n) ↔ ∀ a, n ≤ a → Memory.read m a = Config.bmemFill := by
  constructor
  · intro hlt a ha
    have hnone : m.lookup a = none := List.lookup_eq_none_iff.mpr fun x hx => by
      simpa using (lt_of_lt_of_le (hlt x hx) ha).ne'
    rw [Memory.read, hnone, Option.getD_none]
  · intro hread x hx
    by_contra hge
    have hfill := hread x.1 (by omega)
    rw [Memory.read_of_mem hm hx] at hfill
    exact hm.2 x hx hfill

/-- Byte strings stored one after the other keep the canonical form. -/
theorem Memory.wf_output {m : Memory} (hm : Memory.wf m) (outs : List (Nat × List Byte)) :
    Memory.wf (outs.foldl (fun m x => Memory.writeBytes m x.1 x.2) m) := by
  induction outs generalizing m with
  | nil => exact hm
  | cons x rest ih => exact ih (Memory.wf_writeBytes hm x.1 x.2)

/-- A byte stored inside the memory keeps it inside. -/
theorem Memory.forall_lt_write {m : Memory} {n a : Nat} (hm : ∀ x ∈ m, x.1 < n) (ha : a < n) (b : Byte) :
    ∀ x ∈ Memory.write m a b, x.1 < n := by
  intro x hx
  rcases Memory.mem_write hx with hx | ⟨rfl, -⟩
  · exact hm x hx
  · exact ha

/-- The memory of a reset lists only addresses that exist. -/
theorem Memory.forall_lt_ofBytes (n : Nat) (bytes : List Host.Cell) : ∀ x ∈ Memory.ofBytes n bytes, x.1 < n := by
  refine List.foldlRecOn (motive := fun m : Memory => ∀ x ∈ m, x.1 < n) bytes _ (by simp) fun m hm y _ => ?_
  split
  · exact Memory.forall_lt_write hm ‹_› _
  · exact hm

/-! ### Commands -/

/-- The ranges a command writes lie inside `BMEM` (R45). -/
def OutputsInside (i : Instr) (s : State) : Prop := ∀ r ∈ outputRanges i s, inBmem s.params r.1 r.2

/-- A run that ends without error has written inside `BMEM` if the checks of its body see to it. -/
theorem outputsInside_of_runCommand {i : Instr} {body : State → Result} {s t : State}
    (hbody : ∀ u, body (prepOf i s) = .done u → OutputsInside i (prepOf i s))
    (h : runCommand i (prepOf i) body s = .next t) (ht : t.phase = .idle) : OutputsInside i s := by
  rcases runCommand_cases h with ⟨-, ⟨u, hu, -⟩ | ⟨e, -, rfl⟩ | ⟨-, rfl⟩⟩ | ⟨-, rfl⟩
  · have hin := hbody u hu
    rwa [OutputsInside, outputRanges_prepOf, (prepOf_hostStateKept i s).params] at hin
  · cases ht
  · cases ht
  · cases ht

section Checked
variable {s t : State}

theorem execSmpt_outputsInside {k : BitVec 2} {addr : BitVec 32} (h : execSmpt k addr s = .next t)
    (ht : t.phase = .idle) : OutputsInside (.smpt k addr) s := by
  refine outputsInside_of_runCommand (fun u hu => ?_) h ht
  simp only [requireStream_eq_done, requireRange_eq_done] at hu
  obtain ⟨-, hout, -⟩ := hu
  simpa [OutputsInside, outputRanges] using hout

theorem execSmpb_outputsInside {k : BitVec 2} {addr : BitVec 32} (h : execSmpb k addr s = .next t)
    (ht : t.phase = .idle) : OutputsInside (.smpb k addr) s := by
  refine outputsInside_of_runCommand (fun u hu => ?_) h ht
  simp only [requireStream_eq_done, requireRange_eq_done] at hu
  obtain ⟨-, hout, -⟩ := hu
  simpa [OutputsInside, outputRanges] using hout

theorem execSer_outputsInside {ps : BitVec 8} {bits : BitVec 6} {addr : BitVec 32}
    (h : execSer ps bits addr s = .next t) (ht : t.phase = .idle) : OutputsInside (.ser ps bits addr) s := by
  refine outputsInside_of_runCommand (fun u hu => ?_) h ht
  simp only [requireFull_eq_done, requireRange_eq_done] at hu
  obtain ⟨-, hout, -⟩ := hu
  simpa [OutputsInside, outputRanges] using hout

theorem execKeygen_outputsInside (h : execKeygen s = .next t) (ht : t.phase = .idle) : OutputsInside .keygen s := by
  refine outputsInside_of_runCommand (fun u hu => ?_) h ht
  simp only [requireSeed_eq_done, requireMatrix_eq_done, requireRange_eq_done] at hu
  obtain ⟨-, -, -, -, hpk, hsk, -⟩ := hu
  simpa [OutputsInside, outputRanges] using ⟨hpk, hsk⟩

theorem execEncap_outputsInside (h : execEncap s = .next t) (ht : t.phase = .idle) : OutputsInside .encap s := by
  refine outputsInside_of_runCommand (fun u hu => ?_) h ht
  simp only [requireSeed_eq_done, requireMatrix_eq_done, requireRange_eq_done] at hu
  obtain ⟨-, -, -, -, -, hsct, hhint, hkey, -⟩ := hu
  simpa [OutputsInside, outputRanges] using ⟨hsct, hhint, hkey⟩

theorem execEnc_outputsInside (h : execEnc s = .next t) (ht : t.phase = .idle) : OutputsInside .enc s := by
  refine outputsInside_of_runCommand (fun u hu => ?_) h ht
  simp only [requireSeed_eq_done, requireMatrix_eq_done, requireRange_eq_done] at hu
  obtain ⟨-, -, -, -, -, -, hsct, hcts, -⟩ := hu
  simpa [OutputsInside, outputRanges] using ⟨hsct, hcts⟩

theorem requireDecap_output {n : Nat} {k : Result} {u : State} (h : requireDecap s n k = .done u) :
    inBmem s.params (s.arg 6) (szb s.params) := by
  simp only [requireDecap, requireConfig_eq_done, requireRange_eq_done] at h
  obtain ⟨-, -, -, -, hout, -⟩ := h
  exact hout

theorem execDecap_outputsInside (h : execDecap s = .next t) (ht : t.phase = .idle) : OutputsInside .decap s := by
  refine outputsInside_of_runCommand (fun u hu => ?_) h ht
  simpa [OutputsInside, outputRanges] using requireDecap_output hu

theorem execDec_outputsInside (h : execDec s = .next t) (ht : t.phase = .idle) : OutputsInside .dec s := by
  refine outputsInside_of_runCommand (fun u hu => ?_) h ht
  simpa [OutputsInside, outputRanges] using requireDecap_output hu

end Checked

/-- A command that ends without error has written inside `BMEM`: eight commands write, and each has checked its
ranges. -/
theorem exec_outputsInside {i : Instr} {s t : State} (h : exec i s = .next t) (ht : t.phase = .idle) :
    OutputsInside i s := by
  cases i
  case smpt => exact execSmpt_outputsInside h ht
  case smpb => exact execSmpb_outputsInside h ht
  case ser => exact execSer_outputsInside h ht
  case keygen => exact execKeygen_outputsInside h ht
  case encap => exact execEncap_outputsInside h ht
  case enc => exact execEnc_outputsInside h ht
  case decap => exact execDecap_outputsInside h ht
  case dec => exact execDec_outputsInside h ht
  all_goals exact fun r hr => absurd hr List.not_mem_nil

theorem Effect.memory_wf {i : Instr} {s u : State} (h : Effect s i u) (hm : Memory.wf s.bmem) : Memory.wf u.bmem := by
  cases h with
  | store outs => exact Memory.wf_output hm outs
  | sampleStore k pos outs => exact Memory.wf_output (m := (s.seek k pos).bmem) hm outs
  | nop | ldcfg | clrerr | slot | sampleSlot | aclr | macs | xinita | xinits | setup => exact hm

theorem Ran.memory_wf {i : Instr} {s t : State} (h : Ran i s t) (hm : Memory.wf s.bmem) : Memory.wf t.bmem := by
  have hprep : Memory.wf (prepOf i s).bmem := (prepOf_bmem i s).symm ▸ hm
  cases h with
  | illegal | running => exact hm
  | raised => exact hprep
  | ended _ he => exact he.memory_wf hprep

/-- What is written inside `BMEM` leaves every byte outside it as it is. -/
theorem OutputsInside.read_eq {i : Instr} {s : State} (h : OutputsInside i s) {m : Memory}
    (hm : Memory.SameOutside s.bmem m (outputRanges i s)) {a : Nat} (ha : s.params.bmemBytes ≤ a) :
    Memory.read m a = Memory.read s.bmem a := by
  refine hm a fun r hr hin => ?_
  rcases h r hr with hempty | hend
  · omega
  · omega

/-- A command keeps the memory in canonical form and inside `BMEM`. -/
theorem exec_memoryOk {i : Instr} {s t : State} (h : exec i s = .next t) (hs : s.MemoryOk) : t.MemoryOk := by
  have hran := exec_ran h
  obtain ⟨hwf, hlt⟩ := hs
  have hwf' := hran.memory_wf hwf
  by_cases ht : t.phase = .idle
  · refine ⟨hwf', ?_⟩
    rw [hran.hostStateKept.params, Memory.forall_lt_iff_read hwf']
    intro a ha
    rw [(exec_outputsInside h ht).read_eq hran.sameOutside ha]
    exact (Memory.forall_lt_iff_read hwf _).mp hlt a ha
  · rw [State.MemoryOk, hran.bmem_of_ne_idle ht, hran.hostStateKept.params]
    exact ⟨hwf, hlt⟩

/-! ### Steps -/

/-- A word on the command port runs a command, is dropped, or raises. -/
theorem commandPort_cases {w : Cmd} {s t : State} (h : commandPort w s = .next t) :
    (∃ i, exec i s.accept = .next t) ∨ t = s ∨ t = s.accept.raise .illegalCommand w := by
  unfold commandPort at h
  split at h
  · cases h
    exact .inr (.inl rfl)
  · split at h
    · exact .inl ⟨_, h⟩
    · cases h
      exact .inr (.inl rfl)
  · split at h
    · exact .inl ⟨_, h⟩
    · cases h
      exact .inr (.inr rfl)

/-- The engine's own move runs the command in flight or changes nothing. -/
theorem enginePort_cases {s t : State} (h : enginePort s = .next t) : (∃ i, exec i s = .next t) ∨ t = s := by
  unfold enginePort at h
  split at h
  · exact .inl ⟨_, h⟩
  · cases h
    exact .inr rfl

/-- The host's actions keep the memory: `BMEM` is written by a command, by the memory port and by reset. -/
theorem hostPort_memoryOk {x : HostAction} {s t : State} (h : hostPort x s = .next t) (hs : s.MemoryOk) :
    t.MemoryOk := by
  cases x with
  | command w =>
    rcases commandPort_cases h with ⟨i, hi⟩ | rfl | rfl
    · exact exec_memoryOk hi hs
    · exact hs
    · exact hs
  | wait =>
    rcases enginePort_cases h with ⟨i, hi⟩ | rfl
    · exact exec_memoryOk hi hs
    · exact hs
  | csrWrite n v =>
    cases hostPort_moves h with
    | csrWrite => rw [csrStore_frame]; exact hs
    | csrWriteDropped => exact hs
  | csrRead n =>
    cases hostPort_moves h
    exact hs
  | bmemWrite a b =>
    cases hostPort_moves h with
    | bmemWrite _ ha =>
      obtain ⟨hwf, hlt⟩ := hs
      exact ⟨Memory.wf_write hwf _ b, Memory.forall_lt_write hlt ha b⟩
    | bmemWriteDropped => exact hs
  | bmemRead a =>
    cases hostPort_moves h
    exact hs
  | reset bytes =>
    cases hostPort_moves h
    exact ⟨Memory.wf_ofBytes _ bytes, Memory.forall_lt_ofBytes _ bytes⟩

/-- Settles O53: commands write inside `BMEM`, as they have checked their ranges, and so does the host's port. -/
theorem memoryKept : Obligations.MemoryKept := by
  unfold Obligations.MemoryKept
  intro s t hs h
  exact hostPort_memoryOk (s := s.popped) (step_eq_hostPort s ▸ h) hs

/-! ### Where the machine stops -/

/-- No command stops the machine: every arm is a run. -/
theorem exec_isNext (i : Instr) (s : State) : ∃ t, exec i s = .next t := by
  unfold exec
  split <;> exact runCommand_isNext _ _ _ _

theorem commandPort_isNext (w : Cmd) (s : State) : ∃ t, commandPort w s = .next t := by
  unfold commandPort
  split
  · exact ⟨_, rfl⟩
  · split
    · exact exec_isNext _ _
    · exact ⟨_, rfl⟩
  · split
    · exact exec_isNext _ _
    · exact ⟨_, rfl⟩

theorem enginePort_isNext (s : State) : ∃ t, enginePort s = .next t := by
  unfold enginePort
  split
  · exact exec_isNext _ _
  · exact ⟨_, rfl⟩

/-- The host reads or writes a byte of `BMEM` at the address. -/
def HostAction.Addresses (x : HostAction) (a : BitVec 32) : Prop := x = .bmemRead a ∨ ∃ b, x = .bmemWrite a b

section Access
variable {s : State} {x : HostAction} {a : BitVec 32}

theorem hostPort_bmemRead_of_busy (hp : s.phase = .busy) :
    hostPort (.bmemRead a) s = .next { s with bmemData := Config.freeByte s.freeCtr, freeCtr := s.freeCtr + 1 } := by
  simp [hostPort, bmemReadPort, hp]

theorem hostPort_bmemWrite_of_busy (hp : s.phase = .busy) (b : Byte) : hostPort (.bmemWrite a b) s = .next s := by
  simp [hostPort, bmemWritePort, hp]

theorem hostPort_bmemRead (hp : s.phase ≠ .busy) (ha : a.toNat < s.params.bmemBytes) :
    hostPort (.bmemRead a) s = .next { s with bmemData := Memory.read s.bmem a.toNat } := by
  cases h : s.phase <;> simp_all [hostPort, bmemReadPort]

theorem hostPort_bmemWrite (hp : s.phase ≠ .busy) (ha : a.toNat < s.params.bmemBytes) (b : Byte) :
    hostPort (.bmemWrite a b) s = .next { s with bmem := Memory.write s.bmem a.toNat b } := by
  cases h : s.phase <;> simp_all [hostPort, bmemWritePort]

/-- Outside `BUSY` the port stops the machine at an address that does not exist (log 10). -/
theorem hostPort_outside (hx : x.Addresses a) (hp : s.phase ≠ .busy) (ha : s.params.bmemBytes ≤ a.toNat) :
    hostPort x s = .fault .hostAddressOutsideBmem := by
  rcases hx with rfl | ⟨b, rfl⟩
  · cases h : s.phase <;> simp_all [hostPort, bmemReadPort]
  · cases h : s.phase <;> simp_all [hostPort, bmemWritePort]

/-- In `BUSY`, or at an address that exists, the port answers. -/
theorem hostPort_isNext_of_addresses (hx : x.Addresses a) (h : s.phase = .busy ∨ a.toNat < s.params.bmemBytes) :
    ∃ t, hostPort x s = .next t := by
  by_cases hp : s.phase = .busy
  · rcases hx with rfl | ⟨b, rfl⟩
    · exact ⟨_, hostPort_bmemRead_of_busy hp⟩
    · exact ⟨_, hostPort_bmemWrite_of_busy hp b⟩
  · have ha := h.resolve_left hp
    rcases hx with rfl | ⟨b, rfl⟩
    · exact ⟨_, hostPort_bmemRead hp ha⟩
    · exact ⟨_, hostPort_bmemWrite hp ha b⟩

/-- Every other action of the host is answered. -/
theorem hostPort_isNext_of_not_addresses (hx : ∀ a, ¬x.Addresses a) : ∃ t, hostPort x s = .next t := by
  cases x with
  | command w => exact commandPort_isNext w s
  | csrWrite n v =>
    by_cases hp : s.phase = .busy
    · exact ⟨_, step_csrWrite_of_busy hp n v⟩
    · exact ⟨_, step_csrWrite hp n v⟩
  | csrRead n => exact ⟨_, step_csrRead s n⟩
  | bmemWrite a b => exact absurd (.inr ⟨b, rfl⟩) (hx a)
  | bmemRead a => exact absurd (.inl rfl) (hx a)
  | reset bytes => exact ⟨_, rfl⟩
  | wait => exact enginePort_isNext s

/-- An access to `BMEM` that a step carries out is the host's next action. -/
theorem port_of_action_addresses (hx : s.action.Addresses a) : s.port = s.action :: s.port.tail := by
  unfold State.action at hx ⊢
  cases hport : s.port with
  | nil => simp [hport, HostAction.Addresses] at hx
  | cons y rest => rfl

end Access

/-- A step is answered, or stops at an access of the host, outside `BUSY`, to a byte that does not exist. -/
theorem step_isNext_or_outside (s : State) :
    (∃ t, step s = .next t) ∨
      ∃ a, s.action.Addresses a ∧ s.phase ≠ .busy ∧ s.params.bmemBytes ≤ a.toNat ∧
        step s = .fault .hostAddressOutsideBmem := by
  rw [step_eq_hostPort]
  by_cases hx : ∃ a, s.action.Addresses a
  · obtain ⟨a, hx⟩ := hx
    by_cases h : s.phase = .busy ∨ a.toNat < s.params.bmemBytes
    · exact .inl (hostPort_isNext_of_addresses hx h)
    · obtain ⟨hp, ha⟩ := not_or.mp h
      exact .inr ⟨a, hx, hp, not_lt.mp ha, hostPort_outside (s := s.popped) hx hp (not_lt.mp ha)⟩
  · exact .inl (hostPort_isNext_of_not_addresses (not_exists.mp hx))

/-- Settles O14: every command is a run, which always answers, and of the host's actions only an access to `BMEM` can
stop the machine. -/
theorem stopsOnlyAtTheMemoryPort : Obligations.StopsOnlyAtTheMemoryPort := by
  unfold Obligations.StopsOnlyAtTheMemoryPort
  refine ⟨exec_isNext, fun s => ?_, fun s a hp ha =>
    ⟨hostPort_outside (.inl rfl) hp ha, fun b => hostPort_outside (.inr ⟨b, rfl⟩) hp ha⟩⟩
  refine (step_isNext_or_outside s).imp id ?_
  rintro ⟨a, hx, hp, ha, hstep⟩
  have hport := port_of_action_addresses hx
  refine ⟨hstep, hp, a, s.port.tail, ?_, ha⟩
  rcases hx with hx | ⟨b, hx⟩
  · exact .inl (hx ▸ hport)
  · exact .inr ⟨b, hx ▸ hport⟩

/-- Settles O11: the port's answer in `BUSY`, and outside it the laws of a read and of a write of one byte. -/
theorem hostMemoryPort : Obligations.HostMemoryPort := by
  unfold Obligations.HostMemoryPort
  intro s a
  refine ⟨fun hp => ⟨hostPort_bmemWrite_of_busy hp, _, hostPort_bmemRead_of_busy hp⟩,
    fun hp ⟨hwf, _⟩ ha => ?_⟩
  refine ⟨hostPort_bmemRead hp ha, fun b => ⟨_, hostPort_bmemWrite hp ha b, rfl, ?_, fun x hx => ?_⟩⟩
  · exact Memory.read_write_same hwf a.toNat b
  · have hne : ¬within (a.toNat, 1) x := hx _ List.mem_cons_self
    exact Memory.read_write_other s.bmem (by simp only [within] at hne; omega) b

end Sys2Proof.Machine
end

section
/-! SUPPORT. The decoder and the encoder are inverse to each other (`30_encoding.md` R60 to R67). The fields a command
does not use are 0 in a word exactly when the word is the encoding of the command read from it. -/

namespace Sys2Proof

/-! ### Words with their unused fields cleared -/

/-- A field of a word where it is used, 0 where it is not. -/
def keep {n : Nat} (used : Bool) (x : BitVec n) : BitVec n := if used then x else 0

theorem keep_eq_self {n : Nat} (used : Bool) (x : BitVec n) : keep used x = x ↔ (used || x.toNat == 0) = true := by
  cases used with
  | false => exact ⟨fun h => by simp [← h, keep], fun h => (BitVec.eq_of_toNat_eq (by simpa [keep] using h)).symm⟩
  | true => exact iff_of_true rfl rfl

theorem wordR_eq_iff {op pd pa pb : BitVec 8} {bits : BitVec 6} {msel xs : BitVec 2} {sub sub2 : BitVec 4}
    {mbits : BitVec 6} {w : Cmd} :
    wordR op pd pa pb bits msel xs sub sub2 mbits = w ↔
      w.extractLsb' 0 8 = op ∧ pd = pdOf w ∧ pa = paOf w ∧ pb = pbOf w ∧ bits = bitsOf w ∧ msel = mselOf w ∧
        xs = xsOf w ∧ sub = subOf w ∧ sub2 = sub2Of w ∧ mbits = mbitsOf w ∧ w.extractLsb' 56 8 = 0 := by
  constructor
  · rintro rfl
    simp only [wordR_op, wordR_pd, wordR_pa, wordR_pb, wordR_bits, wordR_msel, wordR_xs, wordR_sub, wordR_sub2,
      wordR_mbits, wordR_zero, and_self]
  · rintro ⟨rfl, rfl, rfl, rfl, rfl, rfl, rfl, rfl, rfl, rfl, hz⟩
    exact wordR_of_fields w hz

theorem wordM_eq_iff {op ps : BitVec 8} {bits : BitVec 6} {xs : BitVec 2} {aux8 : BitVec 8} {addr : BitVec 32}
    {w : Cmd} :
    wordM op ps bits xs aux8 addr = w ↔
      w.extractLsb' 0 8 = op ∧ ps = psOfM w ∧ bits = bitsOfM w ∧ xs = xsOfM w ∧ aux8 = auxOfM w ∧
        addr = addrOfM w := by
  constructor
  · rintro rfl
    simp only [wordM_op, wordM_ps, wordM_bits, wordM_xs, wordM_aux8, wordM_addr, and_self]
  · rintro ⟨rfl, rfl, rfl, rfl, rfl, rfl⟩
    exact wordM_of_fields w

/-- The layout of a command's word: its format, with the fields it uses (the columns of R66). -/
inductive Layout where
  | formatR (uses : List RField) (hzero : uses.contains .zero = false)
  | formatM (uses : List MField)
  | formatI
  | formatS

/-- R65 item 2 for a word read with the layout. -/
def Layout.unusedZero (w : Cmd) : Layout → Bool
  | .formatR uses _ => unusedZeroR uses w
  | .formatM uses => unusedZeroM uses w
  | .formatI => unusedZeroI w
  | .formatS => unusedZeroS w

/-- The word of opcode `op` with the fields of `w` that the layout uses, and 0 in every other. -/
def Layout.clear (op : BitVec 8) (w : Cmd) : Layout → Cmd
  | .formatR uses _ =>
    wordR op (keep (uses.contains .pd) (pdOf w)) (keep (uses.contains .pa) (paOf w))
      (keep (uses.contains .pb) (pbOf w)) (keep (uses.contains .bits) (bitsOf w))
      (keep (uses.contains .msel) (mselOf w)) (keep (uses.contains .xs) (xsOf w))
      (keep (uses.contains .sub) (subOf w)) (keep (uses.contains .sub2) (sub2Of w))
      (keep (uses.contains .mbits) (mbitsOf w))
  | .formatM uses =>
    wordM op (keep (uses.contains .ps) (psOfM w)) (keep (uses.contains .bits) (bitsOfM w))
      (keep (uses.contains .xs) (xsOfM w)) (keep (uses.contains .aux8) (auxOfM w))
      (keep (uses.contains .addr) (addrOfM w))
  | .formatI => wordI op (pdOf w) (paOf w) (immOfI w)
  | .formatS => wordS op

/-- A word passes R65 item 2 exactly when clearing its unused fields leaves it as it is. -/
theorem Layout.clear_eq_self {op : BitVec 8} {w : Cmd} (hop : w.extractLsb' 0 8 = op) (l : Layout) :
    l.clear op w = w ↔ l.unusedZero w = true := by
  subst hop
  cases l with
  | formatR uses hzero =>
    simp only [clear, wordR_eq_iff, keep_eq_self, unusedZero, unusedZeroR, RField.all, List.all_cons, List.all_nil,
      Bool.and_eq_true, RField.value, hzero, Bool.false_or]
    simp [pdOf, paOf, pbOf, bitsOf, mselOf, xsOf, subOf, sub2Of, mbitsOf, BitVec.toNat_eq]
  | formatM uses =>
    simp only [clear, wordM_eq_iff, keep_eq_self, unusedZero, unusedZeroM, MField.all, List.all_cons, List.all_nil,
      Bool.and_eq_true, MField.value]
    simp [psOfM, bitsOfM, xsOfM, auxOfM, addrOfM]
  | formatI =>
    simp only [clear, unusedZero, unusedZeroI, beq_iff_eq]
    exact ⟨fun h => h ▸ wordI_zero .., wordI_of_fields w⟩
  | formatS =>
    simp only [clear, unusedZero, unusedZeroS, beq_iff_eq]
    exact ⟨fun h => h ▸ wordS_zero _, wordS_of_fields w⟩

/-! ### The layout of each command -/

/-- The format and the "uses" column of R66. -/
def Instr.layout : Instr → Layout
  | .nop | .ldcfg | .clrerr | .aclr | .setup | .keygen | .encap | .enc | .decap | .dec => .formatS
  | .ntt _ _ | .intt _ _ | .snorm _ _ => .formatR [.pd, .pa] rfl
  | .muln _ _ _ => .formatR [.pd, .pa, .pb] rfl
  | .add _ _ _ _ _ | .sub _ _ _ _ _ | .recn _ _ _ _ _ => .formatR [.pd, .pa, .pb, .msel, .mbits] rfl
  | .macs _ _ => .formatR [.pa, .pb] rfl
  | .ared _ _ _ => .formatR [.pd, .msel, .mbits] rfl
  | .geta _ _ _ => .formatR [.pd, .sub, .sub2] rfl
  | .smpu _ _ _ | .smpg _ _ _ => .formatR [.pd, .xs, .sub] rfl
  | .comp _ _ _ _ _ | .dcmp _ _ _ _ _ => .formatR [.pd, .pa, .bits, .msel, .mbits] rfl
  | .rdbl _ _ _ => .formatR [.pd, .pa, .xs] rfl
  | .xrnd _ _ _ _ => .formatR [.pd, .pa, .msel, .mbits] rfl
  | .xinita _ _ _ | .xinits _ _ _ => .formatM [.xs, .aux8, .addr]
  | .smpt _ _ | .smpb _ _ => .formatM [.xs, .addr]
  | .dect _ _ _ | .decb _ _ _ => .formatM [.ps, .aux8, .addr]
  | .ser _ _ _ => .formatM [.ps, .bits, .addr]
  | .deser _ _ _ _ => .formatM [.ps, .bits, .aux8, .addr]
  | .scale _ _ _ => .formatI

open Laws.Opcode (opcode)

/-- What the opcode map answers, row by row: the opcode, the check of the unused fields, and the encoding of the
command read, which is the word with its unused fields cleared. -/
theorem parse_eq_some {w : Cmd} {i : Instr} {b : Bool} (h : parse w = some (i, b)) :
    w.extractLsb' 0 8 = opcode i ∧ b = i.layout.unusedZero w ∧ encode i = i.layout.clear (opcode i) w := by
  unfold parse at h
  split at h <;> cases h
  all_goals exact ⟨BitVec.eq_of_toNat_eq ‹_›, rfl, rfl⟩

/-- The unused fields of a word are 0 exactly when the word is the encoding of the command read from it. -/
theorem encode_eq_iff_of_parse {w : Cmd} {i : Instr} {b : Bool} (h : parse w = some (i, b)) :
    encode i = w ↔ b = true := by
  obtain ⟨hop, rfl, henc⟩ := parse_eq_some h
  rw [henc]
  exact Layout.clear_eq_self hop _

/-- The opcode map reads every operand of an encoded command back. -/
theorem parse_encode_fst (i : Instr) : (parse (encode i)).map Prod.fst = some i := by
  cases i with
  | nop | ldcfg | clrerr | aclr | setup | keygen | encap | enc | decap | dec => simp [parse, encode, wordS_op]
  | scale => simp [parse, encode, wordI_op, wordI_pd, wordI_pa, wordI_imm32]
  | xinita | xinits | smpt | smpb | dect | decb | ser | deser =>
    simp [parse, encode, wordM_op, wordM_ps, wordM_bits, wordM_xs, wordM_aux8, wordM_addr]
  | ntt | intt | muln | add | sub | macs | ared | snorm | geta | smpu | smpg | comp | dcmp | rdbl | xrnd | recn =>
    simp [parse, encode, wordR_op, wordR_pd, wordR_pa, wordR_pb, wordR_bits, wordR_msel, wordR_xs, wordR_sub,
      wordR_sub2, wordR_mbits]

theorem parse_encode (i : Instr) : parse (encode i) = some (i, true) := by
  obtain ⟨⟨j, b⟩, hparse, hij⟩ := Option.map_eq_some_iff.mp (parse_encode_fst i)
  obtain rfl : j = i := hij
  rw [hparse, (encode_eq_iff_of_parse hparse).mp rfl]

/-! ### The decoder -/

/-- One check of R65: passed, it leaves the answer to the checks after it. -/
theorem reject_else_eq_ok {passed : Bool} {e : DecodeReject} {k : Except DecodeReject Instr} {i : Instr} :
    (if !passed then .error e else k) = .ok i ↔ passed = true ∧ k = .ok i := by
  cases passed <;> simp

/-- A word decodes to a command exactly when it is read as that command and every check of R65 passes. -/
theorem decode_eq_ok {p : Params} {w : Cmd} {i : Instr} :
    decode p w = .ok i ↔ parse w = some (i, true) ∧ i.wellFormed p = true := by
  unfold decode Instr.wellFormed
  cases parse w with
  | none => exact iff_of_false nofun nofun
  | some x =>
    obtain ⟨j, b⟩ := x
    simp only [reject_else_eq_ok, Bool.and_eq_true]
    constructor
    · rintro ⟨rfl, hslots, hwidth, hmodulus, hselector, haux, ⟨⟩⟩
      exact ⟨rfl, ⟨⟨⟨hslots, hwidth⟩, hmodulus⟩, hselector⟩, haux⟩
    · rintro ⟨⟨⟩, ⟨⟨⟨hslots, hwidth⟩, hmodulus⟩, hselector⟩, haux⟩
      exact ⟨rfl, hslots, hwidth, hmodulus, hselector, haux, rfl⟩

/-- Settles O1: every operand of an encoded command is read back and its unused fields are 0, so that the checks of
`wellFormed` are all that is left of the decoder's. -/
theorem encodeThenDecode : Obligations.EncodeThenDecode := by
  unfold Obligations.EncodeThenDecode
  intro p i hwf
  exact decode_eq_ok.mpr ⟨parse_encode i, hwf⟩

/-- Settles O2: the command read from a word encodes to the word with its unused fields cleared, and they are 0. -/
theorem decodeThenEncode : Obligations.DecodeThenEncode := by
  unfold Obligations.DecodeThenEncode
  intro p w i h
  obtain ⟨hparse, hwf⟩ := decode_eq_ok.mp h
  exact ⟨(encode_eq_iff_of_parse hparse).mpr rfl, hwf⟩

/-- Settles O3: the words are the encodings by evaluation, and the commands are well-formed, so O1 decodes them back. -/
theorem workedEncodings : Obligations.WorkedEncodings := by
  unfold Obligations.WorkedEncodings
  intro x hx
  have hrow : encode x.1 = x.2 ∧ x.1.wellFormed Params.default = true := by
    revert x
    decide
  obtain ⟨hword, hwf⟩ := hrow
  exact ⟨hword, hword ▸ encodeThenDecode _ _ hwf⟩

end Sys2Proof

namespace Sys2Proof.Machine

/-! ### The command port in `IDLE` -/

/-- In `IDLE` a word that decodes is accepted and its command run (R60). -/
theorem commandPort_of_decode {s : State} {w : Cmd} {i : Instr} (hp : s.phase = .idle)
    (h : decode s.params w = .ok i) : commandPort w s = exec i s.accept := by
  simp only [commandPort, hp, h]

theorem wordOfBits_toNat (w : Cmd) : wordOfBits 64 w.toNat = w := by
  rw [wordOfBits, Nat.mod_eq_of_lt w.isLt, BitVec.ofNat_toNat, BitVec.setWidth_eq]

theorem withFetchWord_toNat (s : State) (w : Cmd) : s.withFetchWord 64 w.toNat = s.present w :=
  congrArg s.present (wordOfBits_toNat w)

/-- Settles O5: the word presented is the next action of the host, and `withFetchWord` presents it. -/
theorem stepRunsDecodedCommand : Obligations.StepRunsDecodedCommand := by
  unfold Obligations.StepRunsDecodedCommand
  intro s w i hp h
  have hstep : step (s.present w) = exec i s.accept := (step_offer s (.command w)).trans (commandPort_of_decode hp h)
  exact ⟨hstep, withFetchWord_toNat s w ▸ hstep⟩

end Sys2Proof.Machine
end

section
/-! SUPPORT. The configuration of a session (`10_state.md` R30 to R33, R36; `40_system.md` R76): its legality on the
bits of `CFG0` and on the Gaussian registers, what writes the registers it is read from, and the three system
commands. -/

namespace Sys2Proof.Machine

/-! ### The legality of the configuration -/

/-- A field of a control register as a number: its `len` bits from bit `start` on. -/
theorem toNat_field (x : Word) (start len : Nat) :
    (x.extractLsb' start len).toNat = x.toNat / 2 ^ start % 2 ^ len := by
  rw [BitVec.extractLsb'_toNat, Nat.shiftRight_eq_div_pow]

/-- The reserved bits are the top of `CFG0`. -/
theorem cfgReserved_eq (s : State) : s.cfgReserved = s.cfg0.toNat / 2 ^ 22 := by
  rw [State.cfgReserved, toNat_field]
  have := s.cfg0.isLt
  omega

/-- R31 to R33 on the number in `CFG0` and on the Gaussian registers. -/
theorem cfgLegal_iff (s : State) :
    s.cfgLegal = true ↔
      (1 ≤ s.cfg0.toNat % 16 ∧ s.cfg0.toNat % 16 ≤ s.params.maxdim) ∧
      (1 ≤ s.cfg0.toNat / 2 ^ 4 % 16 ∧ s.cfg0.toNat / 2 ^ 4 % 16 ≤ s.params.maxdim) ∧
      s.cfg0.toNat / 2 ^ 8 % 4 ≤ 1 ∧
      (1 ≤ s.cfg0.toNat / 2 ^ 10 % 64 ∧ s.cfg0.toNat / 2 ^ 10 % 64 ≤ 32) ∧
      (1 ≤ s.cfg0.toNat / 2 ^ 16 % 64 ∧ s.cfg0.toNat / 2 ^ 16 % 64 ≤ 32) ∧
      s.cfg0.toNat / 2 ^ 22 = 0 ∧
      12 * s.sigma0.toNat ^ 2 > 2 ^ 32 ∧ 12 * s.sigma1.toNat ^ 2 > 2 ^ 32 := by
  simp only [State.cfgLegal, State.cfgM, State.cfgN, State.cfgKind, State.cfgDU, State.cfgDV, cfgReserved_eq,
    toNat_field, sigmaLegal, Bool.and_eq_true, decide_eq_true_eq, beq_iff_eq, and_assoc,
    pow_zero, Nat.div_one]
  rfl

/-! ### The configuration through every step -/

section Configuration
variable {s t : State}

/-- Legality is read from the parameters and the three configuration registers, which no command writes. -/
theorem HostStateKept.cfgLegal (h : HostStateKept s t) : t.cfgLegal = s.cfgLegal := by
  rw [Bool.eq_iff_iff, cfgLegal_iff, cfgLegal_iff, h.params, h.cfg0, h.sigma0, h.sigma1]

theorem configOk_prepOf (hs : s.ConfigOk) (i : Instr) : (prepOf i s).ConfigOk := by
  obtain ⟨-, ha⟩ := id hs
  rcases prepOf_cases i s with hp | hp | ⟨-, hp⟩ <;> rw [hp]
  · exact hs
  · exact hs
  · exact ⟨nofun, ha⟩

/-- `LDCFG` sets `CFG_VALID` over a legal configuration (R76), `SETUP` sets `A_VALID` where `CFG_VALID` is 1. -/
theorem Effect.configOk {i : Instr} {u : State} (h : Effect s i u) (hs : s.ConfigOk) : u.ConfigOk := by
  obtain ⟨hcfg, ha⟩ := id hs
  rw [State.ConfigOk, h.hostStateKept.cfgLegal]
  cases h with
  | ldcfg hlegal => exact ⟨fun _ => hlegal, ha⟩
  | setup hvalid => exact ⟨hcfg, fun _ => hcfg hvalid⟩
  | nop | clrerr | slot | sampleSlot | aclr | macs | xinita | xinits | store | sampleStore => exact hs

theorem Ran.configOk {i : Instr} (h : Ran i s t) (hs : s.ConfigOk) : t.ConfigOk := by
  have hprep := configOk_prepOf hs i
  cases h with
  | illegal | running => exact hs
  | raised => exact hprep
  | ended _ he => exact he.configOk hprep

/-- A write of the host to a control register ends the session or leaves the configuration alone (R36). -/
theorem csrStore_session (s : State) (n : BitVec 6) (v : Word) :
    ((s.csrStore n v).cfgValid = false ∧ (s.csrStore n v).aValid = false) ∨
      ((s.csrStore n v).cfgValid = s.cfgValid ∧ (s.csrStore n v).aValid = s.aValid ∧
        (s.csrStore n v).cfgLegal = s.cfgLegal) := by
  unfold State.csrStore
  split
  case h_1 | h_2 | h_3 => exact .inl ⟨rfl, rfl⟩
  all_goals exact .inr ⟨rfl, rfl, rfl⟩

theorem configOk_csrStore (hs : s.ConfigOk) (n : BitVec 6) (v : Word) : (s.csrStore n v).ConfigOk := by
  rcases csrStore_session s n v with ⟨hcfg, ha⟩ | ⟨hcfg, ha, hlegal⟩
  · simp [State.ConfigOk, hcfg, ha]
  · rwa [State.ConfigOk, hcfg, ha, hlegal]

theorem Moves.configOk {x : HostAction} (h : Moves s x t) (hs : s.ConfigOk) : t.ConfigOk := by
  cases h with
  | accepted _ hr => exact hr.configOk hs
  | attempt _ _ hr => exact hr.configOk hs
  | csrWrite => exact configOk_csrStore hs _ _
  | reset bytes => exact configOk_launch s.params (Memory.ofBytes s.params.bmemBytes bytes)
  | rejected | cleared | dropped | csrWriteDropped | csrRead | bmemWrite | bmemWriteDropped | bmemRead | quiet =>
    exact hs

end Configuration

/-- Settles O54: the flags are set over a legal configuration only, and a write to its registers clears them. -/
theorem configurationKept : Obligations.ConfigurationKept := by
  unfold Obligations.ConfigurationKept
  intro s t hs h
  exact (step_moves h).configOk hs

/-! ### The system commands -/

/-- `NOP` always ends, and does nothing else (R75). -/
theorem execNop_eq (s : State) : execNop s = .next s.finish := rfl

/-- The static checks find nothing to refuse in `LDCFG`. -/
theorem wellFormed_ldcfg (p : Params) : Instr.ldcfg.wellFormed p = true := rfl

theorem execLdcfg_of_legal {s : State} (h : s.cfgLegal = true) :
    execLdcfg s = .next { s with cfgValid := true, phase := .idle, flight := none } := by
  unfold execLdcfg
  exact runCommand_done (u := { s with cfgValid := true }) (wellFormed_ldcfg s.params) (require_of h _ _)

theorem execLdcfg_of_not_legal {s : State} (h : ¬s.cfgLegal = true) :
    execLdcfg s =
      .next { s with cfgValid := false, errCode := 2, errInfo := 1, phase := .error, flight := none } := by
  unfold execLdcfg
  exact runCommand_fail (e := .parameterError) (wellFormed_ldcfg s.params) (require_of_not h _ _)

/-- Settles O15: `NOP` and `CLRERR` always end, and `LDCFG` by the legality of the registers read bit by bit. -/
theorem systemCommands : Obligations.SystemCommands := by
  unfold Obligations.SystemCommands
  intro s
  exact ⟨execNop_eq s, execClrerr_eq s, fun h => execLdcfg_of_legal ((cfgLegal_iff s).mpr h),
    fun h => execLdcfg_of_not_legal (mt (cfgLegal_iff s).mp h)⟩

/-! ### The words of `NOP` and `CLRERR` -/

section Words
variable {s : State} {w : Cmd}

/-- In `IDLE` a word that is no command is accepted and raises (`60_exceptions.md` R163). -/
theorem commandPort_of_not_decode (hp : s.phase = .idle) (h : ∀ i, decode s.params w ≠ .ok i) :
    commandPort w s = .next (s.accept.raise .illegalCommand w) := by
  simp only [commandPort, hp]
  split
  · exact absurd ‹_› (h _)
  · rfl

theorem commandPort_clrerr_of_error (hp : s.phase = .error) :
    commandPort clrerrWord s = .next s.accept.clearError.finish := by
  simp only [commandPort, hp, if_pos]
  exact execClrerr_eq s.accept

theorem commandPort_other_of_error (hp : s.phase = .error) (hw : w ≠ clrerrWord) : commandPort w s = .next s := by
  simp only [commandPort, hp, if_neg hw]

theorem decode_nopWord (p : Params) : decode p 0x0000000000000000 = .ok .nop := encodeThenDecode p .nop rfl

theorem decode_clrerrWord (p : Params) : decode p clrerrWord = .ok .clrerr := encodeThenDecode p .clrerr rfl

/-- A word read as the command `i` is no command at all unless it is the encoding of `i`. -/
theorem decode_ne_ok {p : Params} {i : Instr} {b : Bool} (hparse : parse w = some (i, b)) (hw : w ≠ encode i) :
    ∀ j, decode p w ≠ .ok j := by
  intro j h
  obtain ⟨hread, -⟩ := decode_eq_ok.mp h
  obtain ⟨henc, -⟩ := decodeThenEncode p w j h
  cases hparse.symm.trans hread
  exact hw henc.symm

theorem parse_of_nop_opcode (hop : w.extractLsb' 0 8 = 0) : parse w = some (.nop, unusedZeroS w) := by
  rw [parse, hop]
  rfl

theorem parse_of_clrerr_opcode (hop : w.extractLsb' 0 8 = 2) : parse w = some (.clrerr, unusedZeroS w) := by
  rw [parse, hop]
  rfl

/-- With the opcode of `NOP` or of `CLRERR`, only the one word with 0 above it is a command (R75, R77). -/
theorem decode_ne_ok_of_opcode (hw : w.extractLsb' 0 8 = 0 ∧ w ≠ 0 ∨ w.extractLsb' 0 8 = 2 ∧ w ≠ 2) (p : Params) :
    ∀ i, decode p w ≠ .ok i := by
  rcases hw with ⟨hop, hne⟩ | ⟨hop, hne⟩
  · exact decode_ne_ok (parse_of_nop_opcode hop) hne
  · exact decode_ne_ok (parse_of_clrerr_opcode hop) hne

/-- In `IDLE` the error registers are 0 already, so `CLRERR` changes `CMDCNT` alone. -/
theorem clearError_of_idle (hp : s.phase = .idle) (hs : s.ErrorOk) :
    s.accept.clearError.finish = { s with cmdCnt := s.cmdCnt + 1 } := by
  obtain ⟨-, hclear, hflight, -⟩ := hs
  obtain ⟨hcode, hinfo⟩ := hclear (by simp [hp])
  have hnone : s.flight = none := by simpa [hp] using hflight
  simp [State.accept, State.clearError, State.finish, hp, hcode, hinfo, hnone]

theorem step_nop_of_idle (hp : s.phase = .idle) :
    step (s.present 0x0000000000000000) = .next { s with cmdCnt := s.cmdCnt + 1, flight := none } :=
  calc step (s.present 0x0000000000000000)
    _ = exec .nop s.accept := (stepRunsDecodedCommand s _ _ hp (decode_nopWord _)).1
    _ = .next s.accept.finish := execNop_eq _
    _ = .next { s with cmdCnt := s.cmdCnt + 1, flight := none } := by simp [State.accept, State.finish, hp]

theorem step_clrerr_of_idle (hp : s.phase = .idle) (hs : s.ErrorOk) :
    step (s.present clrerrWord) = .next { s with cmdCnt := s.cmdCnt + 1 } :=
  calc step (s.present clrerrWord)
    _ = exec .clrerr s.accept := (stepRunsDecodedCommand s _ _ hp (decode_clrerrWord _)).1
    _ = .next s.accept.clearError.finish := execClrerr_eq _
    _ = .next { s with cmdCnt := s.cmdCnt + 1 } := congrArg _ (clearError_of_idle hp hs)

end Words

/-- Settles O7: the two words are decoded and run, and a word with other bits set above their opcode is no command. -/
theorem nopAndClrerrWords : Obligations.NopAndClrerrWords := by
  unfold Obligations.NopAndClrerrWords
  intro s
  refine ⟨fun hp => ⟨step_nop_of_idle hp, step_clrerr_of_idle hp, fun w hw => ?_⟩, fun hp => ⟨?_, fun w _ hne => ?_⟩⟩
  · exact (step_offer s (.command w)).trans (commandPort_of_not_decode hp (decode_ne_ok_of_opcode hw _))
  · exact (step_offer s (.command clrerrWord)).trans (commandPort_clrerr_of_error hp)
  · exact (step_offer s (.command w)).trans (commandPort_other_of_error hp hne)

end Sys2Proof.Machine
end

section
/-! SUPPORT. The coefficients of a polynomial, read place by place. -/

namespace Sys2Proof.Machine

theorem at0_of_length_le {f : List Nat} {j : Nat} (h : f.length ≤ j) : at0 f j = 0 := List.getD_eq_default _ _ h

theorem at0_append_left {f g : List Nat} {j : Nat} (h : j < f.length) : at0 (f ++ g) j = at0 f j :=
  List.getD_append _ _ _ _ h

theorem at0_append_right {f g : List Nat} {j : Nat} (h : f.length ≤ j) : at0 (f ++ g) j = at0 g (j - f.length) :=
  List.getD_append_right _ _ _ _ h

theorem at0_drop (f : List Nat) (n j : Nat) : at0 (f.drop n) j = at0 f (n + j) := by
  simp [at0, List.getD_eq_getElem?_getD]

theorem at0_take {f : List Nat} {n j : Nat} (h : j < n) : at0 (f.take n) j = at0 f j := by
  simp [at0, List.getD_eq_getElem?_getD, h]

theorem at0_map {α : Type} (g : α → Nat) {l : List α} {j : Nat} (h : j < l.length) (d : α) :
    at0 (l.map g) j = g (l.getD j d) := by
  simp [at0, List.getD_eq_getElem?_getD, h]

theorem at0_zipWith (g : Nat → Nat → Nat) {x y : List Nat} {j : Nat} (hx : j < x.length) (hy : j < y.length) :
    at0 (List.zipWith g x y) j = g (at0 x j) (at0 y j) := by
  simp [at0, List.getD_eq_getElem?_getD, hx, hy]

theorem at0_polyOf {p : Params} (f : Nat → Nat) {j : Nat} (h : j < p.d) : at0 (polyOf p f) j = f j := by
  simp [at0, polyOf, List.getD_eq_getElem?_getD, h]

theorem at0_mem {f : List Nat} {j : Nat} (h : j < f.length) : at0 f j ∈ f := by
  rw [at0, List.getD_eq_getElem _ _ h]
  exact List.getElem_mem h

theorem length_polyOf (p : Params) (f : Nat → Nat) : (polyOf p f).length = p.d := by simp [polyOf]

/-- Polynomials of one length are equal if they agree at every place. -/
theorem eq_of_at0_eq {f g : List Nat} (hlen : f.length = g.length) (h : ∀ j < f.length, at0 f j = at0 g j) :
    f = g := by
  refine List.ext_getElem hlen fun j hf hg => ?_
  simpa [at0, List.getD_eq_getElem?_getD, hf, hg] using h j hf

/-! ### Residues -/

/-- The coefficients of a polynomial as residues modulo `q`. -/
def residue (q : Nat) (f : List Nat) (j : Nat) : ZMod q := at0 f j

/-- Numbers below `q` are the same if they are the same residue. -/
theorem eq_of_residue_eq {q : Nat} {f g : List Nat} (hlen : f.length = g.length) (hf : ∀ x ∈ f, x < q)
    (hg : ∀ x ∈ g, x < q) (h : ∀ j < f.length, residue q f j = residue q g j) : f = g := by
  refine eq_of_at0_eq hlen fun j hj => ?_
  have hmod := (ZMod.natCast_eq_natCast_iff' _ _ q).mp (h j hj)
  rwa [Nat.mod_eq_of_lt (hf _ (at0_mem hj)), Nat.mod_eq_of_lt (hg _ (at0_mem (hlen ▸ hj)))] at hmod

theorem cast_imod (x : Int) {q : Nat} (hq : 0 < q) : ((imod x q : Nat) : ZMod q) = x := by
  have hx : ((imod x q : Nat) : Int) ≡ x [ZMOD q] := by rw [imod_cast x hq]; exact Int.mod_modEq x q
  simpa using (ZMod.intCast_eq_intCast_iff _ _ q).mpr hx

end Sys2Proof.Machine
end

section
/-! SUPPORT. The layers of the transforms over a field: a layer mixes the two halves of every block of a function on
places, two coefficients at a time. The two transforms are stages of layers, and each inverse layer undoes the forward
layer of the same span up to a factor 2. -/

namespace Sys2Proof.Machine

/-- Every place lies in the lower or in the upper half of its block. -/
theorem exists_block {len : Nat} (hlen : 0 < len) (j : Nat) :
    ∃ b t, t < len ∧ (j = 2 * len * b + t ∨ j = 2 * len * b + (len + t)) := by
  have hdiv := Nat.div_add_mod j (2 * len)
  have hmod := Nat.mod_lt j (show 0 < 2 * len by omega)
  by_cases h : j % (2 * len) < len
  · exact ⟨j / (2 * len), j % (2 * len), h, .inl (by omega)⟩
  · exact ⟨j / (2 * len), j % (2 * len) - len, by omega, .inr (by omega)⟩

/-- Two functions on places agree if they do on both halves of every block. -/
theorem funext_blocks {α : Type} {len : Nat} (hlen : 0 < len) {f g : Nat → α}
    (h : ∀ b, ∀ t < len, f (2 * len * b + t) = g (2 * len * b + t) ∧
      f (2 * len * b + (len + t)) = g (2 * len * b + (len + t))) : f = g := by
  funext j
  obtain ⟨b, t, ht, rfl | rfl⟩ := exists_block hlen j
  · exact (h b t ht).1
  · exact (h b t ht).2

variable {K : Type} [Field K]

/-- The layer of span `len` mixes place `t` of the lower half of block `b` with place `t` of its upper half by `M b`. -/
def layer (len : Nat) (M : Nat → Matrix (Fin 2) (Fin 2) K) : (Nat → K) →ₗ[K] (Nat → K) where
  toFun f j :=
    if j % (2 * len) < len then M (j / (2 * len)) 0 0 * f j + M (j / (2 * len)) 0 1 * f (j + len)
    else M (j / (2 * len)) 1 0 * f (j - len) + M (j / (2 * len)) 1 1 * f j
  map_add' f g := by
    funext j
    simp only [Pi.add_apply]
    split <;> ring
  map_smul' a f := by
    funext j
    simp only [Pi.smul_apply, smul_eq_mul, RingHom.id_apply]
    split <;> ring

section Layer
variable {len : Nat} (M N : Nat → Matrix (Fin 2) (Fin 2) K) (f : Nat → K)

theorem layer_lower (b : Nat) {t : Nat} (ht : t < len) :
    layer len M f (2 * len * b + t) = M b 0 0 * f (2 * len * b + t) + M b 0 1 * f (2 * len * b + (len + t)) := by
  have hdiv : (2 * len * b + t) / (2 * len) = b := by
    rw [Nat.mul_add_div (by omega), Nat.div_eq_of_lt (by omega), Nat.add_zero]
  have hmod : (2 * len * b + t) % (2 * len) = t := by rw [Nat.mul_add_mod, Nat.mod_eq_of_lt (by omega)]
  have hplace : 2 * len * b + t + len = 2 * len * b + (len + t) := by omega
  simp only [layer, LinearMap.coe_mk, AddHom.coe_mk, hdiv, hmod, if_pos ht, hplace]

theorem layer_upper (b : Nat) {t : Nat} (ht : t < len) :
    layer len M f (2 * len * b + (len + t)) =
      M b 1 0 * f (2 * len * b + t) + M b 1 1 * f (2 * len * b + (len + t)) := by
  have hdiv : (2 * len * b + (len + t)) / (2 * len) = b := by
    rw [Nat.mul_add_div (by omega), Nat.div_eq_of_lt (by omega), Nat.add_zero]
  have hmod : (2 * len * b + (len + t)) % (2 * len) = len + t := by rw [Nat.mul_add_mod, Nat.mod_eq_of_lt (by omega)]
  have hplace : 2 * len * b + (len + t) - len = 2 * len * b + t := by omega
  simp only [layer, LinearMap.coe_mk, AddHom.coe_mk, hdiv, hmod, if_neg (show ¬len + t < len by omega), hplace]

/-- Layers of one span compose as their matrices do. -/
theorem layer_layer (hlen : 0 < len) : layer len M (layer len N f) = layer len (fun b => M b * N b) f := by
  refine funext_blocks hlen fun b t ht => ⟨?_, ?_⟩
  · simp only [layer_lower _ _ b ht, layer_upper _ _ b ht, Matrix.mul_apply, Fin.sum_univ_two]
    ring
  · simp only [layer_lower _ _ b ht, layer_upper _ _ b ht, Matrix.mul_apply, Fin.sum_univ_two]
    ring

theorem layer_scalar (hlen : 0 < len) (a : K) : layer len (fun _ => Matrix.scalar (Fin 2) a) f = a • f := by
  refine funext_blocks hlen fun b t ht => ⟨?_, ?_⟩
  · simp [layer_lower _ _ b ht]
  · simp [layer_upper _ _ b ht]

end Layer

/-- The forward butterfly with table entry `z` (R81). -/
def fwdMatrix (z : K) : Matrix (Fin 2) (Fin 2) K := !![1, z; 1, -z]

/-- The inverse butterfly (R82) that undoes the forward one with table entry `z`: its own table entry is `-z⁻¹`. -/
def invMatrix (z : K) : Matrix (Fin 2) (Fin 2) K := !![1, 1; z⁻¹, -z⁻¹]

theorem invMatrix_mul_fwdMatrix {z : K} (hz : z ≠ 0) : invMatrix z * fwdMatrix z = Matrix.scalar (Fin 2) (2 : K) := by
  rw [invMatrix, fwdMatrix, Matrix.mul_fin_two, Matrix.scalar_apply, Matrix.diagonal_fin_two]
  simp [hz]
  norm_num

/-- The last `n` layers of the forward transform from layer `i` on, with the table `z`. -/
def fwdStages (z : Nat → K) : Nat → Nat → (Nat → K) →ₗ[K] (Nat → K)
  | 0, _ => LinearMap.id
  | n + 1, i => fwdStages z n (i + 1) ∘ₗ layer (2 ^ n) fun b => fwdMatrix (z (2 ^ i + b))

/-- The first `n` layers of the inverse transform, which undo `fwdStages z n i`. -/
def invStages (z : Nat → K) : Nat → Nat → (Nat → K) →ₗ[K] (Nat → K)
  | 0, _ => LinearMap.id
  | n + 1, i => (layer (2 ^ n) fun b => invMatrix (z (2 ^ i + b))) ∘ₗ invStages z n (i + 1)

/-- The inverse stages undo the forward ones up to a factor 2 for each layer. -/
theorem invStages_fwdStages {z : Nat → K} (hz : ∀ k, z k ≠ 0) (n i : Nat) (f : Nat → K) :
    invStages z n i (fwdStages z n i f) = (2 : K) ^ n • f := by
  induction n generalizing i f with
  | zero => simp [invStages, fwdStages]
  | succ n ih =>
    simp only [invStages, fwdStages, LinearMap.comp_apply, ih, map_smul, layer_layer _ _ _ (Nat.two_pow_pos n),
      invMatrix_mul_fwdMatrix (hz _), layer_scalar _ (Nat.two_pow_pos n), smul_smul, pow_succ]

/-! ### The closed form -/

/-- The polynomial with the `n` coefficients from place `start` on, at `x`. -/
def evalFrom (f : Nat → K) (start n : Nat) (x : K) : K := ∑ t ∈ Finset.range n, f (start + t) * x ^ t

theorem evalFrom_zero (f : Nat → K) (n : Nat) (x : K) : evalFrom f 0 n x = ∑ t ∈ Finset.range n, f t * x ^ t := by
  simp only [evalFrom, Nat.zero_add]

/-- A polynomial of twice the length from its two halves. -/
theorem evalFrom_two_mul (f : Nat → K) (start n : Nat) (x : K) :
    evalFrom f start (2 * n) x = evalFrom f start n x + x ^ n * evalFrom f (start + n) n x := by
  simp only [evalFrom, Nat.two_mul, Finset.sum_range_add, Finset.mul_sum, pow_add, Nat.add_assoc]
  exact congrArg _ (Finset.sum_congr rfl fun _ _ => by ring)

/-- A forward layer reduces the polynomial of block `b` modulo `X^len - z b` and modulo `X^len + z b`: half `h` of the
block has the block's values where `x^len` is `z b` or `-z b`. -/
theorem evalFrom_fwd_layer (f : Nat → K) (z : Nat → K) {len b h : Nat} (hh : h < 2) {x : K}
    (hx : x ^ len = (-1) ^ h * z b) :
    evalFrom (layer len (fun b => fwdMatrix (z b)) f) (len * (2 * b + h)) len x =
      evalFrom f (2 * len * b) (2 * len) x := by
  rw [evalFrom_two_mul, hx]
  simp only [evalFrom, Finset.mul_sum, ← Finset.sum_add_distrib]
  refine Finset.sum_congr rfl fun t ht => ?_
  have ht := Finset.mem_range.mp ht
  obtain rfl | rfl : h = 0 ∨ h = 1 := by omega
  · have hplace : len * (2 * b + 0) + t = 2 * len * b + t := by ring
    rw [hplace, layer_lower _ _ b ht]
    simp [fwdMatrix, Nat.add_assoc]
    ring
  · have hplace : len * (2 * b + 1) + t = 2 * len * b + (len + t) := by ring
    rw [hplace, layer_upper _ _ b ht]
    simp [fwdMatrix, Nat.add_assoc]
    ring

end Sys2Proof.Machine
end

section
/-! SUPPORT. The table of the transforms: bit reversal of places and of table indices, and the closed form that the
forward stages have with the table of `41_ringarith.md` R80. -/

namespace Sys2Proof.Machine

/-! ### Bit reversal (`00_scope.md` R15) -/

/-- The reversal of `l + n` bits reverses the upper `l` and the lower `n` bits and exchanges the two parts. -/
theorem brv_add (l n k : Nat) : brv (l + n) k = brv l (k / 2 ^ n) + 2 ^ l * brv n k := by
  induction n generalizing k with
  | zero => simp [brv]
  | succ n ih =>
    have hdiv : k / 2 / 2 ^ n = k / 2 ^ (n + 1) := by rw [Nat.div_div_eq_div_mul, Nat.pow_succ']
    rw [← Nat.add_assoc, brv, ih, hdiv, brv]
    ring

theorem brv_zero_right (n : Nat) : brv n 0 = 0 := by
  induction n with
  | zero => rfl
  | succ n ih => simp [brv, ih]

/-- The reversal sees only the lowest bits. -/
theorem brv_two_pow_add (i b : Nat) : brv i (2 ^ i + b) = brv i b := by
  induction i generalizing b with
  | zero => rfl
  | succ i ih =>
    have hmod : (2 ^ (i + 1) + b) % 2 = b % 2 := by omega
    have hdiv : (2 ^ (i + 1) + b) / 2 = 2 ^ i + b / 2 := by omega
    rw [brv, brv, hmod, hdiv, ih]

/-- The reversals of a number and of its complement are complements. -/
theorem brv_add_brv_compl {i b : Nat} (hb : b < 2 ^ i) : brv i b + brv i (2 ^ i - 1 - b) + 1 = 2 ^ i := by
  induction i generalizing b with
  | zero => rfl
  | succ i ih =>
    have hsplit : b % 2 + (2 ^ (i + 1) - 1 - b) % 2 = 1 := by omega
    have hdiv : (2 ^ (i + 1) - 1 - b) / 2 = 2 ^ i - 1 - b / 2 := by omega
    have hrec := ih (b := b / 2) (by omega)
    rw [brv, brv, hdiv]
    calc _ = (b % 2 + (2 ^ (i + 1) - 1 - b) % 2) * 2 ^ i + (brv i (b / 2) + brv i (2 ^ i - 1 - b / 2) + 1) := by ring
      _ = 2 ^ (i + 1) := by rw [hsplit, hrec]; ring

/-- The reversed table index of block `b` of layer `i`, of `n` layers after it. -/
theorem brv_table_index (n : Nat) {i b : Nat} (hb : b < 2 ^ i) :
    brv (n + 1 + i) (2 ^ i + b) = 2 ^ n * (2 * brv i b + 1) := by
  have hdiv : (2 ^ i + b) / 2 ^ i = 1 := by
    rw [Nat.add_div_left _ (Nat.two_pow_pos i), Nat.div_eq_of_lt hb]
  have hone : brv (n + 1) 1 = 2 ^ n := by simp [brv, brv_zero_right]
  rw [brv_add, hdiv, hone, brv_two_pow_add]
  ring

/-- The inverse transform's table index for block `b` of layer `i` belongs to the exponent that completes `D` (R82). -/
theorem brv_table_index_compl (n : Nat) {i b : Nat} (hb : b < 2 ^ i) :
    brv (n + 1 + i) (2 ^ i + b) + brv (n + 1 + i) (2 ^ (i + 1) - 1 - b) = 2 ^ (n + 1 + i) := by
  have hindex : 2 ^ (i + 1) - 1 - b = 2 ^ i + (2 ^ i - 1 - b) := by omega
  rw [hindex, brv_table_index n hb, brv_table_index n (by omega)]
  calc _ = 2 ^ n * (2 * (brv i b + brv i (2 ^ i - 1 - b) + 1)) := by ring
    _ = 2 ^ (n + 1 + i) := by rw [brv_add_brv_compl hb]; ring

/-! ### Roots -/

section Roots
variable {K : Type} [Field K] {psi : K} {l : Nat}

/-- The table entries of R80 are powers of `PSI`. -/
def table (psi : K) (l k : Nat) : K := psi ^ brv l k

/-- The root of place `j`: the odd power of `PSI` at which the forward transform gives the value there (R83 a). -/
def placeRoot (psi : K) (l j : Nat) : K := psi ^ (2 * brv l j + 1)

theorem root_ne_zero (hpsi : psi ^ 2 ^ l = -1) : psi ≠ 0 := by
  rintro rfl
  simp at hpsi

theorem table_ne_zero (hpsi : psi ^ 2 ^ l = -1) (k : Nat) : table psi l k ≠ 0 := pow_ne_zero _ (root_ne_zero hpsi)

/-- The entries that the two transforms use for one block are inverses of each other but for the sign (R82). -/
theorem table_compl {n i b : Nat} (hpsi : psi ^ 2 ^ (n + 1 + i) = -1) (hb : b < 2 ^ i) :
    table psi (n + 1 + i) (2 ^ (i + 1) - 1 - b) = -(table psi (n + 1 + i) (2 ^ i + b))⁻¹ := by
  have hprod : table psi (n + 1 + i) (2 ^ i + b) * table psi (n + 1 + i) (2 ^ (i + 1) - 1 - b) = -1 := by
    rw [table, table, ← pow_add, brv_table_index_compl n hb, hpsi]
  have hne := table_ne_zero hpsi (2 ^ i + b)
  field_simp
  rw [mul_comm, hprod]

/-- The roots of the places are roots of `X^D + 1`. -/
theorem placeRoot_pow (hpsi : psi ^ 2 ^ l = -1) (j : Nat) : placeRoot psi l j ^ 2 ^ l = -1 := by
  rw [placeRoot, ← pow_mul, mul_comm, pow_mul, hpsi, Odd.neg_one_pow ⟨_, rfl⟩]

/-- The root of a place, to the span of layer `i`: the layer's table entry for the block with the place in it, with the
sign of the half in which the place lies. -/
theorem placeRoot_pow_span {n i b h j : Nat} (hpsi : psi ^ 2 ^ (n + 1 + i) = -1) (hb : b < 2 ^ i) (hh : h < 2)
    (hj : j / 2 ^ n = 2 * b + h) :
    placeRoot psi (n + 1 + i) j ^ 2 ^ n = (-1) ^ h * table psi (n + 1 + i) (2 ^ i + b) := by
  have hupper : brv (i + 1) (2 * b + h) = h * 2 ^ i + brv i b := by
    have hmod : (2 * b + h) % 2 = h := by omega
    have hdiv : (2 * b + h) / 2 = b := by omega
    rw [brv, hmod, hdiv]
  have hplace : brv (n + 1 + i) j = h * 2 ^ i + brv i b + 2 ^ (i + 1) * brv n j := by
    rw [show n + 1 + i = i + 1 + n by omega, brv_add, hj, hupper]
  have hexp : (2 * brv (n + 1 + i) j + 1) * 2 ^ n =
      2 ^ (n + 1 + i) * h + (2 ^ n * (2 * brv i b + 1) + 2 ^ (n + 1 + i) * (2 * brv n j)) := by
    rw [hplace]
    ring
  rw [placeRoot, ← pow_mul, hexp, pow_add psi, pow_add psi, pow_mul psi (2 ^ (n + 1 + i)), pow_mul psi (2 ^ (n + 1 + i)),
    hpsi, pow_mul (-1 : K), neg_one_sq, one_pow, mul_one, table, brv_table_index n hb]

/-- The closed form of the forward stages: place `j` holds the value of its block's polynomial at its root. -/
theorem fwdStages_eq_evalFrom {n i : Nat} (hpsi : psi ^ 2 ^ (n + i) = -1) {j : Nat} (hj : j < 2 ^ (n + i))
    (f : Nat → K) :
    fwdStages (table psi (n + i)) n i f j =
      evalFrom f (2 ^ n * (j / 2 ^ n)) (2 ^ n) (placeRoot psi (n + i) j) := by
  induction n generalizing i f with
  | zero => simp [fwdStages, evalFrom]
  | succ n ih =>
    obtain ⟨b, h, hh, hbh⟩ : ∃ b h, h < 2 ∧ j / 2 ^ n = 2 * b + h :=
      ⟨_, _, Nat.mod_lt _ two_pos, (Nat.div_add_mod _ 2).symm⟩
    have hblock : j / 2 ^ (n + 1) = b := by
      rw [pow_succ, ← Nat.div_div_eq_div_mul]
      omega
    have hb : b < 2 ^ i := by
      rw [← hblock, Nat.div_lt_iff_lt_mul (Nat.two_pow_pos _), ← pow_add, Nat.add_comm]
      exact hj
    have hlayers : n + 1 + i = n + (i + 1) := by omega
    have hspan := placeRoot_pow_span hpsi hb hh hbh
    rw [hlayers] at hpsi hj hspan ⊢
    rw [fwdStages, LinearMap.comp_apply, ih hpsi hj, hbh, evalFrom_fwd_layer f
      (fun b => table psi (n + (i + 1)) (2 ^ i + b)) hh hspan, hblock, pow_succ']

end Roots

end Sys2Proof.Machine
end

section
/-! SUPPORT. The transforms of the model are the stages over the residues modulo `Q`: each list of blocks is a layer
(`41_ringarith.md` R81, R82). -/

namespace Sys2Proof.Machine

section Layers
variable {p : Params} [Fact p.q.Prime]

/-- `u` is the block with the halves `lo` and `hi` of span `len`, mixed by `m`. -/
def IsButterfly (q len : Nat) (m : Matrix (Fin 2) (Fin 2) (ZMod q)) (lo hi u : List Nat) : Prop :=
  u.length = 2 * len ∧ ∀ t < len,
    residue q u t = m 0 0 * residue q lo t + m 0 1 * residue q hi t ∧
      residue q u (len + t) = m 1 0 * residue q lo t + m 1 1 * residue q hi t

theorem fwdButterfly_isButterfly (z : Nat) {len : Nat} {lo hi : List Nat} (hlo : lo.length = len)
    (hhi : hi.length = len) :
    IsButterfly p.q len (fwdMatrix (z : ZMod p.q)) lo hi (fwdButterfly p.q z lo hi) := by
  have hq : 0 < p.q := (Fact.out : p.q.Prime).pos
  refine ⟨length_fwdButterfly _ _ hlo hhi, fun t ht => ?_⟩
  have hat (g : Nat → Nat → Nat) :
      at0 (List.zipWith g lo (hi.map fun x => z * x % p.q)) t = g (at0 lo t) (z * at0 hi t % p.q) := by
    rw [at0_zipWith g (by omega) (by rw [List.length_map]; omega), at0_map _ (by omega) 0, at0]
    rfl
  constructor
  · rw [residue, fwdButterfly, at0_append_left (by simp [hlo, hhi, ht]), hat]
    simp [fwdMatrix, residue]
  · rw [residue, fwdButterfly, at0_append_right (by simp [hlo, hhi])]
    simp only [List.length_zipWith, List.length_map, hlo, hhi, min_self, Nat.add_sub_cancel_left, hat, cast_imod _ hq]
    simp [fwdMatrix, residue, sub_eq_add_neg]

theorem invButterfly_isButterfly {z : Nat} {w : ZMod p.q} (hz : (z : ZMod p.q) = -w⁻¹) {len : Nat}
    {lo hi : List Nat} (hlo : lo.length = len) (hhi : hi.length = len) :
    IsButterfly p.q len (invMatrix w) lo hi (invButterfly p.q z lo hi) := by
  have hq : 0 < p.q := (Fact.out : p.q.Prime).pos
  refine ⟨length_invButterfly _ _ hlo hhi, fun t ht => ?_⟩
  have hat (g : Nat → Nat → Nat) : at0 (List.zipWith g lo hi) t = g (at0 lo t) (at0 hi t) :=
    at0_zipWith g (by omega) (by omega)
  constructor
  · rw [residue, invButterfly, at0_append_left (by simp [hlo, hhi, ht]), hat]
    simp [invMatrix, residue]
  · rw [residue, invButterfly, at0_append_right (by simp [hlo, hhi])]
    simp only [List.length_zipWith, hlo, hhi, min_self, Nat.add_sub_cancel_left, hat, cast_imod _ hq]
    simp [invMatrix, residue, hz]
    ring

/-- A layer from its first block and the layer of the rest. -/
theorem residue_block_append {len : Nat} (hlen : 0 < len) {M : Nat → Matrix (Fin 2) (Fin 2) (ZMod p.q)}
    {f rest : List Nat} (hf : 2 * len ≤ f.length) {butterfly : List Nat → List Nat → List Nat}
    (hb : ∀ {lo hi}, lo.length = len → hi.length = len → IsButterfly p.q len (M 0) lo hi (butterfly lo hi))
    (hrest : residue p.q rest = layer len (fun b => M (b + 1)) (residue p.q (f.drop (2 * len)))) :
    residue p.q (butterfly (f.take len) ((f.drop len).take len) ++ rest) = layer len M (residue p.q f) := by
  obtain ⟨hlength, hblock⟩ :=
    hb (lo := f.take len) (hi := (f.drop len).take len) (by rw [List.length_take]; omega)
      (by rw [List.length_take, List.length_drop]; omega)
  have hdrop (n j : Nat) : residue p.q (f.drop n) j = residue p.q f (n + j) := by rw [residue, at0_drop, residue]
  have htake (g : List Nat) {j : Nat} (hj : j < len) : residue p.q (g.take len) j = residue p.q g j := by
    rw [residue, at0_take hj, residue]
  refine funext_blocks hlen fun b t ht => ?_
  obtain ⟨hlower, hupper⟩ := hblock t ht
  rw [layer_lower _ _ b ht, layer_upper _ _ b ht]
  cases b with
  | zero =>
    rw [htake _ ht, htake _ ht, hdrop] at hlower hupper
    simp only [Nat.mul_zero, Nat.zero_add, ← hlower, ← hupper]
    exact ⟨congrArg Nat.cast (at0_append_left (by omega)), congrArg Nat.cast (at0_append_left (by omega))⟩
  | succ b =>
    have hplace (j : Nat) : 2 * len * (b + 1) + j = 2 * len + (2 * len * b + j) := by ring
    have happend (j : Nat) :
        residue p.q (butterfly (f.take len) ((f.drop len).take len) ++ rest) (2 * len + j) = residue p.q rest j := by
      rw [residue, at0_append_right (by omega), hlength, Nat.add_sub_cancel_left, residue]
    simp only [hplace, happend, hrest, layer_lower _ _ b ht, layer_upper _ _ b ht, hdrop, true_and]

theorem residue_nil (q : Nat) : residue q [] = 0 := by
  funext j
  simp [residue, at0]

/-- The blocks of a forward layer. -/
theorem residue_fwdBlocks {len : Nat} (hlen : 0 < len) (blocks k : Nat) {f : List Nat}
    (hf : f.length = 2 * len * blocks) :
    residue p.q (fwdBlocks p len blocks k f) =
      layer len (fun b => fwdMatrix (zeta p (k + b) : ZMod p.q)) (residue p.q f) := by
  induction blocks generalizing k f with
  | zero =>
    rw [fwdBlocks, List.length_eq_zero_iff.mp hf, residue_nil, map_zero]
  | succ blocks ih =>
    rw [Nat.mul_succ] at hf
    refine residue_block_append hlen (by omega) (fwdButterfly_isButterfly _) ?_
    rw [ih (k + 1) (by rw [List.length_drop]; omega)]
    simp only [Nat.add_assoc, Nat.add_comm 1]

/-- The blocks of an inverse layer that uses, block for block, the table entry `-w⁻¹`. -/
theorem residue_invBlocks {len : Nat} (hlen : 0 < len) (blocks k : Nat) {f : List Nat} {w : Nat → ZMod p.q}
    (hf : f.length = 2 * len * blocks) (hw : ∀ b < blocks, (zeta p (k - b) : ZMod p.q) = -(w b)⁻¹) :
    residue p.q (invBlocks p len blocks k f) = layer len (fun b => invMatrix (w b)) (residue p.q f) := by
  induction blocks generalizing k f w with
  | zero =>
    rw [invBlocks, List.length_eq_zero_iff.mp hf, residue_nil, map_zero]
  | succ blocks ih =>
    rw [Nat.mul_succ] at hf
    refine residue_block_append hlen (by omega) (invButterfly_isButterfly (hw 0 (by omega))) ?_
    refine ih (k - 1) (w := fun b => w (b + 1)) (by rw [List.length_drop]; omega) fun b hb => ?_
    rw [Nat.sub_sub, Nat.add_comm 1]
    exact hw (b + 1) (by omega)

/-- The table of the model is the table of powers of `PSI`. -/
theorem cast_zeta (k : Nat) : (zeta p k : ZMod p.q) = table (p.psi : ZMod p.q) (logD p) k := by
  simp [zeta, table]

/-- The forward layers are the forward stages. -/
theorem residue_fwdLayers (n i : Nat) {f : List Nat} (hd : p.d = 2 ^ (n + i)) (hf : f.length = p.d) :
    residue p.q (fwdLayers p n i f) = fwdStages (table (p.psi : ZMod p.q) (logD p)) n i (residue p.q f) := by
  induction n generalizing i f with
  | zero => rfl
  | succ n ih =>
    have hspan : p.d / 2 ^ (i + 1) = 2 ^ n := by
      rw [hd, show n + 1 + i = n + (i + 1) by omega, pow_add, Nat.mul_div_cancel _ (Nat.two_pow_pos _)]
    have hblocks : f.length = 2 * 2 ^ n * 2 ^ i := by
      rw [hf, hd]
      ring
    rw [fwdLayers, hspan, ih _ (by rw [hd]; congr 1; omega) ((length_fwdBlocks _ _ _ _ _ hblocks).trans hf),
      residue_fwdBlocks (Nat.two_pow_pos n) _ _ hblocks]
    simp only [cast_zeta]
    rfl

/-- The inverse layers carry the inverse stages on: `m` stages are done, `n` layers are left. -/
theorem residue_invLayers (n m : Nat) {f : List Nat} {g : Nat → ZMod p.q} (hd : p.d = 2 ^ (m + n))
    (hlog : logD p = m + n) (hpsi : (p.psi : ZMod p.q) ^ p.d = -1) (hf : f.length = p.d)
    (hg : residue p.q f = invStages (table (p.psi : ZMod p.q) (logD p)) m n g) :
    residue p.q (invLayers p n (2 ^ m) (2 ^ n - 1) f) =
      invStages (table (p.psi : ZMod p.q) (logD p)) (m + n) 0 g := by
  induction n generalizing m f with
  | zero => exact hg
  | succ n ih =>
    have hlayers : m + (n + 1) = m + 1 + n := by omega
    have hd' : p.d = 2 * 2 ^ m * 2 ^ n := by
      rw [hd]
      ring
    have hblocks : p.d / (2 * 2 ^ m) = 2 ^ n := by rw [hd', Nat.mul_div_cancel_left _ (by positivity)]
    have hindex : 2 ^ (n + 1) - 1 - 2 ^ n = 2 ^ n - 1 := by omega
    have htable : ∀ b < 2 ^ n, (zeta p (2 ^ (n + 1) - 1 - b) : ZMod p.q) =
        -(table (p.psi : ZMod p.q) (logD p) (2 ^ n + b))⁻¹ := by
      intro b hb
      rw [cast_zeta, hlog, hlayers]
      exact table_compl (by rw [← hlayers, ← hd]; exact hpsi) hb
    rw [invLayers, hblocks, hindex, ← pow_succ', hlayers]
    refine ih (m + 1) (by rw [hd, hlayers]) (by rw [hlog, hlayers])
      ((length_invBlocks _ _ _ _ _ (hf.trans hd')).trans hf) ?_
    rw [residue_invBlocks (Nat.two_pow_pos m) _ _ (hf.trans hd') htable, hg]
    rfl

end Layers

end Sys2Proof.Machine
end

section
/-! SUPPORT. The laws of the transforms (`41_ringarith.md` R83) under legal parameters. -/

namespace Sys2Proof.Machine

/-! ### The constants of legal parameters -/

section Legal
variable {p : Params}

/-- R8: `PSI^D = -1` modulo `Q`. -/
theorem cast_psi_pow (hp : p.Legal) : (p.psi : ZMod p.q) ^ p.d = -1 := by
  calc (p.psi : ZMod p.q) ^ p.d = ((p.psi ^ p.d % p.q : Nat) : ZMod p.q) := by simp
    _ = -1 := by rw [hp.psi_root, Nat.cast_pred (legal_q_pos hp), ZMod.natCast_self, zero_sub]

/-- R9: `DINV` is the inverse of `D` modulo `Q`. -/
theorem cast_dinv_mul (hp : p.Legal) : (dinv p : ZMod p.q) * p.d = 1 := by
  have hmul : (p.q - 1) / p.d * p.d = p.q - 1 := by
    have hdvd : 2 * p.d ∣ p.q - 1 := hp.q_mod ▸ Nat.dvd_sub_mod p.q
    exact Nat.div_mul_cancel ((Nat.dvd_mul_left p.d 2).trans hdvd)
  have hle : (p.q - 1) / p.d ≤ p.q := (Nat.div_le_self _ _).trans (Nat.sub_le _ _)
  calc (dinv p : ZMod p.q) * p.d = -(((p.q - 1) / p.d * p.d : Nat) : ZMod p.q) := by
        rw [dinv, Nat.cast_sub hle, ZMod.natCast_self, Nat.cast_mul]
        ring
    _ = 1 := by rw [hmul, Nat.cast_pred (legal_q_pos hp), ZMod.natCast_self, zero_sub, neg_neg]

end Legal

/-! ### The transforms as linear maps over the residues -/

section Residues
variable {p : Params}

theorem nttf_lt (hp : p.Legal) {f : List Nat} (hf : ∀ x ∈ f, x < p.q) : ∀ x ∈ nttf p f, x < p.q :=
  fwdLayers_lt (legal_q_pos hp) _ _ _ hf

theorem ntti_lt (hp : p.Legal) (f : List Nat) : ∀ x ∈ ntti p f, x < p.q :=
  List.forall_mem_map.mpr fun _ _ => Nat.mod_lt _ (legal_q_pos hp)

theorem addMod_lt (hp : p.Legal) (f g : List Nat) : ∀ x ∈ addMod p.q f g, x < p.q :=
  forall_mem_zipWith (P := (· < p.q)) (fun _ _ => Nat.mod_lt _ (legal_q_pos hp)) _ _

theorem length_addMod {q n : Nat} {f g : List Nat} (hf : f.length = n) (hg : g.length = n) :
    (addMod q f g).length = n := by simp [addMod, hf, hg]

theorem residue_of_length_le {q : Nat} {f : List Nat} {j : Nat} (h : f.length ≤ j) : residue q f j = 0 := by
  rw [residue, at0_of_length_le h, Nat.cast_zero]

theorem residue_addMod (q : Nat) {f g : List Nat} (h : f.length = g.length) :
    residue q (addMod q f g) = residue q f + residue q g := by
  funext j
  by_cases hj : j < f.length
  · simp [residue, addMod, at0_zipWith _ hj (h ▸ hj)]
  · have hj := not_lt.mp hj
    simp [residue_of_length_le hj, residue_of_length_le (h ▸ hj),
      residue_of_length_le ((length_addMod (q := q) rfl h.symm).trans_le hj)]

theorem residue_map_mul (q a : Nat) (f : List Nat) :
    residue q (f.map fun x => x * a % q) = (a : ZMod q) • residue q f := by
  funext j
  by_cases hj : j < f.length
  · rw [residue, at0_map _ hj 0]
    simp [residue, at0, mul_comm]
  · have hj := not_lt.mp hj
    simp [residue_of_length_le hj, residue_of_length_le ((List.length_map _).trans_le hj)]

variable [Fact p.q.Prime]

theorem residue_nttf (hp : p.Legal) {f : List Nat} (hf : f.length = p.d) :
    residue p.q (nttf p f) = fwdStages (table (p.psi : ZMod p.q) (logD p)) (logD p) 0 (residue p.q f) :=
  residue_fwdLayers _ 0 (legal_d_eq hp) hf

theorem residue_ntti (hp : p.Legal) {f : List Nat} (hf : f.length = p.d) :
    residue p.q (ntti p f) =
      (dinv p : ZMod p.q) • invStages (table (p.psi : ZMod p.q) (logD p)) (logD p) 0 (residue p.q f) := by
  have hd := legal_d_eq hp
  have hlayers := residue_invLayers (p := p) (logD p) 0 (f := f) (g := residue p.q f)
    (by rw [Nat.zero_add]; exact hd) (Nat.zero_add _).symm (cast_psi_pow hp) hf rfl
  rw [← hd, pow_zero, Nat.zero_add] at hlayers
  rw [ntti, residue_map_mul, hlayers]

/-- Place `i` of the transform is the value of the polynomial at the root of the place. -/
theorem residue_nttf_eq_evalFrom (hp : p.Legal) {f : List Nat} (hf : f.length = p.d) {i : Nat} (hi : i < p.d) :
    residue p.q (nttf p f) i = evalFrom (residue p.q f) 0 p.d (placeRoot (p.psi : ZMod p.q) (logD p) i) := by
  have hd := legal_d_eq hp
  have hpsi := cast_psi_pow hp
  rw [hd] at hpsi hi
  have hclosed := fwdStages_eq_evalFrom (n := logD p) (i := 0) hpsi hi (residue p.q f)
  rw [residue_nttf hp hf]
  rwa [Nat.div_eq_of_lt hi, Nat.mul_zero, ← hd] at hclosed

end Residues

/-- Settles O37: the forward stages reduce the polynomial block by block modulo `X - root`, which evaluates it. -/
theorem transformClosedForm : Obligations.TransformClosedForm := by
  unfold Obligations.TransformClosedForm
  intro p f hp hf hlt i hi
  have : Fact p.q.Prime := ⟨hp.q_prime⟩
  have hvalue : ((at0 (nttf p f) i : Nat) : ZMod p.q) =
      ((∑ j ∈ Finset.range p.d, at0 f j * p.psi ^ ((2 * brv (Nat.log2 p.d) i + 1) * j) : Nat) : ZMod p.q) := by
    have heval := residue_nttf_eq_evalFrom hp hf hi
    simp only [evalFrom_zero, placeRoot, ← pow_mul] at heval
    push_cast
    exact heval
  have hbound := nttf_lt hp hlt _ (at0_mem ((length_nttf hp hf).symm ▸ hi))
  rw [← Nat.mod_eq_of_lt hbound]
  exact (ZMod.natCast_eq_natCast_iff' _ _ _).mp hvalue

/-- Settles O38: the inverse stages undo the forward stages up to `2^L = D`, and `DINV` removes it. -/
theorem transformRoundTrip : Obligations.TransformRoundTrip := by
  unfold Obligations.TransformRoundTrip
  intro p f hp hf hlt
  have : Fact p.q.Prime := ⟨hp.q_prime⟩
  have hd := legal_d_eq hp
  have hpsi := cast_psi_pow hp
  have hcast : (2 : ZMod p.q) ^ logD p = p.d := by
    conv_rhs => rw [hd]
    simp
  have hlen := length_nttf hp hf
  have hresidue : residue p.q (ntti p (nttf p f)) = residue p.q f := by
    rw [hd] at hpsi
    rw [residue_ntti hp hlen, residue_nttf hp hf, invStages_fwdStages (table_ne_zero hpsi), smul_smul, hcast,
      cast_dinv_mul hp, one_smul]
  exact eq_of_residue_eq ((length_ntti hp hlen).trans hf.symm) (ntti_lt hp _) hlt fun j _ => congrFun hresidue j

/-- Settles O40: modulo `Q` both transforms are linear maps. -/
theorem transformLinear : Obligations.TransformLinear := by
  unfold Obligations.TransformLinear
  intro p f g hp hf hg _ _
  have : Fact p.q.Prime := ⟨hp.q_prime⟩
  have hadd := length_addMod (q := p.q) hf hg
  have hsum := residue_addMod p.q (hf.trans hg.symm)
  constructor
  · have hlenf := length_nttf hp hf
    have hleng := length_nttf hp hg
    refine eq_of_residue_eq ((length_nttf hp hadd).trans (length_addMod hlenf hleng).symm)
      (nttf_lt hp (addMod_lt hp f g)) (addMod_lt hp _ _) fun j _ => ?_
    rw [residue_addMod _ (hlenf.trans hleng.symm), residue_nttf hp hadd, hsum, map_add, residue_nttf hp hf,
      residue_nttf hp hg]
  · have hlenf := length_ntti hp hf
    have hleng := length_ntti hp hg
    refine eq_of_residue_eq ((length_ntti hp hadd).trans (length_addMod hlenf hleng).symm) (ntti_lt hp _)
      (addMod_lt hp _ _) fun j _ => ?_
    rw [residue_addMod _ (hlenf.trans hleng.symm), residue_ntti hp hadd, hsum, map_add, smul_add, residue_ntti hp hf,
      residue_ntti hp hg]

/-! ### Convolution -/

/-- Coefficient `k` of the product of `g` and the monomial of degree `i` in the ring where `X^d = -1`. -/
def monomialMul {R : Type} [Neg R] (g : Nat → R) (d i k : Nat) : R := if i ≤ k then g (k - i) else -g (k + d - i)

theorem convolution_eq_sum (d : Nat) (f g : Nat → Int) (k : Nat) :
    convolution d f g k = ∑ i ∈ Finset.range d, f i * monomialMul g d i k :=
  Finset.sum_congr rfl fun i _ => by unfold monomialMul; split <;> ring

section Roots
variable {K : Type} [Field K] {d : Nat} {x : K}

/-- At a root of `X^d + 1`, the product with a monomial has the product of the values. -/
theorem evalFrom_monomialMul (g : Nat → K) {i : Nat} (hi : i ≤ d) (hx : x ^ d = -1) :
    evalFrom (monomialMul g d i) 0 d x = x ^ i * evalFrom g 0 d x := by
  obtain ⟨n, rfl⟩ := Nat.exists_eq_add_of_le hi
  have hwrapped : ∑ k ∈ Finset.range i, monomialMul g (i + n) i k * x ^ k =
      x ^ i * ∑ k ∈ Finset.range i, g (n + k) * x ^ (n + k) := by
    rw [Finset.mul_sum]
    refine Finset.sum_congr rfl fun k hk => ?_
    have hki : ¬i ≤ k := not_le.mpr (Finset.mem_range.mp hk)
    have hplace : k + (i + n) - i = n + k := by omega
    calc monomialMul g (i + n) i k * x ^ k
      _ = -1 * (g (n + k) * x ^ k) := by rw [monomialMul, if_neg hki, hplace]; ring
      _ = x ^ i * (g (n + k) * x ^ (n + k)) := by rw [← hx]; ring
  have hshifted : ∑ k ∈ Finset.range n, monomialMul g (i + n) i (i + k) * x ^ (i + k) =
      x ^ i * ∑ k ∈ Finset.range n, g k * x ^ k := by
    rw [Finset.mul_sum]
    refine Finset.sum_congr rfl fun k _ => ?_
    rw [monomialMul, if_pos (Nat.le_add_right i k), Nat.add_sub_cancel_left]
    ring
  have hwhole : evalFrom g 0 (i + n) x =
      ∑ k ∈ Finset.range n, g k * x ^ k + ∑ k ∈ Finset.range i, g (n + k) * x ^ (n + k) := by
    simp only [evalFrom_zero, Nat.add_comm i n, Finset.sum_range_add]
  rw [evalFrom_zero, Finset.sum_range_add, hwrapped, hshifted, hwhole]
  ring

/-- The value of the negacyclic convolution at a root of `X^d + 1` is the product of the values. -/
theorem evalFrom_convolution (f g : Nat → Int) (hx : x ^ d = -1) :
    evalFrom (fun k => ((convolution d f g k : Int) : K)) 0 d x =
      evalFrom (fun i => (f i : K)) 0 d x * evalFrom (fun j => (g j : K)) 0 d x := by
  have hterm (k : Nat) : ((convolution d f g k : Int) : K) =
      ∑ i ∈ Finset.range d, (f i : K) * monomialMul (fun j => (g j : K)) d i k := by
    rw [convolution_eq_sum, Int.cast_sum]
    refine Finset.sum_congr rfl fun i _ => ?_
    unfold monomialMul
    split <;> simp
  calc evalFrom (fun k => ((convolution d f g k : Int) : K)) 0 d x
    _ = ∑ i ∈ Finset.range d, (f i : K) * evalFrom (monomialMul (fun j => (g j : K)) d i) 0 d x := by
        simp only [evalFrom_zero, hterm, Finset.sum_mul, Finset.mul_sum, mul_assoc]
        exact Finset.sum_comm
    _ = ∑ i ∈ Finset.range d, (f i : K) * (x ^ i * evalFrom (fun j => (g j : K)) 0 d x) :=
        Finset.sum_congr rfl fun i hi => by rw [evalFrom_monomialMul _ (Finset.mem_range.mp hi).le hx]
    _ = evalFrom (fun i => (f i : K)) 0 d x * evalFrom (fun j => (g j : K)) 0 d x := by
        rw [evalFrom_zero (fun i => (f i : K)), Finset.sum_mul]
        exact Finset.sum_congr rfl fun i _ => (mul_assoc _ _ _).symm

end Roots

/-- The negacyclic convolution modulo `Q`, as a polynomial (R83 c). -/
def convMod (p : Params) (f g : List Nat) : List Nat :=
  polyOf p fun k => (convolution p.d (fun i => (at0 f i : Int)) (fun j => (at0 g j : Int)) k % (p.q : Int)).toNat

theorem convMod_lt {p : Params} (hp : p.Legal) (f g : List Nat) : ∀ x ∈ convMod p f g, x < p.q :=
  List.forall_mem_map.mpr fun _ _ => imod_lt _ (legal_q_pos hp)

theorem residue_convMod {p : Params} (hp : p.Legal) (f g : List Nat) {k : Nat} (hk : k < p.d) :
    residue p.q (convMod p f g) k =
      ((convolution p.d (fun i => (at0 f i : Int)) (fun j => (at0 g j : Int)) k : Int) : ZMod p.q) := by
  rw [residue, convMod, at0_polyOf _ hk]
  exact cast_imod _ (legal_q_pos hp)

theorem residue_mulPointwise (q : Nat) {f g : List Nat} {j : Nat} (hf : j < f.length) (hg : j < g.length) :
    residue q (mulPointwise q f g) j = residue q f j * residue q g j := by
  simp [residue, mulPointwise, at0_zipWith _ hf hg]

/-- The transform of the convolution is the pointwise product of the transforms: at a root of `X^D + 1` the
convolution has the product of the values. -/
theorem nttf_convMod {p : Params} (hp : p.Legal) {f g : List Nat} (hf : f.length = p.d) (hg : g.length = p.d) :
    nttf p (convMod p f g) = mulPointwise p.q (nttf p f) (nttf p g) := by
  have : Fact p.q.Prime := ⟨hp.q_prime⟩
  have hlen : (convMod p f g).length = p.d := length_polyOf _ _
  have hlenf := length_nttf hp hf
  have hleng := length_nttf hp hg
  refine eq_of_residue_eq (by simp [mulPointwise, length_nttf hp hlen, hlenf, hleng])
    (nttf_lt hp (convMod_lt hp f g))
    (forall_mem_zipWith (P := (· < p.q)) (fun _ _ => Nat.mod_lt _ (legal_q_pos hp)) _ _) fun j hj => ?_
  have hj : j < p.d := length_nttf hp hlen ▸ hj
  have hroot : placeRoot (p.psi : ZMod p.q) (logD p) j ^ p.d = -1 := by
    have hpsi := cast_psi_pow hp
    rw [legal_d_eq hp] at hpsi ⊢
    exact placeRoot_pow hpsi j
  have hconv := evalFrom_convolution (fun i => (at0 f i : Int)) (fun i => (at0 g i : Int)) hroot
  simp only [Int.cast_natCast] at hconv
  rw [residue_mulPointwise _ (hlenf.symm ▸ hj) (hleng.symm ▸ hj), residue_nttf_eq_evalFrom hp hlen hj,
    residue_nttf_eq_evalFrom hp hf hj, residue_nttf_eq_evalFrom hp hg hj]
  refine Eq.trans ?_ hconv
  rw [evalFrom_zero, evalFrom_zero]
  exact Finset.sum_congr rfl fun k hk => by rw [residue_convMod hp f g (Finset.mem_range.mp hk)]

/-- Settles O39: the inverse transform undoes the transform of the convolution, which is the pointwise product. -/
theorem transformConvolution : Obligations.TransformConvolution := by
  unfold Obligations.TransformConvolution
  intro p f g hp hf hg _ _
  rw [← nttf_convMod hp hf hg]
  exact transformRoundTrip p _ hp (length_polyOf _ _) (convMod_lt hp f g)

end Sys2Proof.Machine
end

section
/-! SUPPORT. The RingArith commands that write a slot (`41_ringarith.md` R84 to R89, R92 to R94): where no cause of an
error is present, the slot holds what the command computes, and nothing else changes. -/

namespace Sys2Proof.Machine

/-! ### The end of a command that writes a slot -/

section SlotCommands
variable {s : State} {pd : BitVec 8} {tag : Tag} {v : List Nat} {i : Instr}

/-- A slot that a well-formed command names is one of the register file. -/
theorem slot_lt_of_wellFormed (hs : s.ShapeOk) (hw : i.wellFormed s.params = true) (hpd : pd ∈ i.slots) :
    pd.toNat < s.slots.length := by
  obtain ⟨hnum, -⟩ := hs
  simp only [Instr.wellFormed, Instr.slotsOk, Bool.and_eq_true, List.all_eq_true] at hw
  obtain ⟨⟨⟨⟨hslots, -⟩, -⟩, -⟩, -⟩ := hw
  simpa [slotOk, hnum] using hslots pd hpd

theorem setSlot_finish_holds (hpd : pd.toNat < s.slots.length) (hlen : v.length = s.params.d)
    (hlt : ∀ x ∈ v, x < 2 ^ 32) {f : Nat → Nat} (hf : ∀ j < s.params.d, at0 v j = f j) :
    (s.setSlot pd tag v).finish.Holds pd tag f := by
  have hslot : (s.setSlot pd tag v).finish.slot pd = { tag := tag, c := cellsOf v } := slot_setSlot s hpd tag v
  have hcoeffs : (s.setSlot pd tag v).finish.coeffs pd = v := by rw [State.coeffs, hslot, natsOf_cellsOf hlt]
  refine ⟨by rw [hslot], by rw [hcoeffs]; exact hlen, fun j hj => ?_⟩
  rw [State.coeff, hcoeffs]
  exact hf j hj

theorem setSlot_finish_frame : SlotFrame s (s.setSlot pd tag v).finish pd :=
  ⟨rfl, fun _ hn => slot_setSlot_other s hn.symm tag v⟩

/-- A command whose checks pass and which then writes the slot `pd`. -/
theorem slotCommand_ends (hs : s.Sound) (hw : i.wellFormed s.params = true) (hpd : pd ∈ i.slots)
    (hrun : exec i s = .next (s.setSlot pd tag v).finish) (hlen : v.length = s.params.d) (hlt : ∀ x ∈ v, x < 2 ^ 32)
    {f : Nat → Nat} (hf : ∀ j < s.params.d, at0 v j = f j) :
    ∃ t, exec i s = .next t ∧ t.Holds pd tag f ∧ SlotFrame s t pd :=
  ⟨_, hrun,
    setSlot_finish_holds (slot_lt_of_wellFormed hs.shape hw hpd) hlen hlt hf, setSlot_finish_frame⟩

/-- A command with one source whose checks pass, by what it computes from the source. -/
theorem unarySlot_done {pa : BitVec 8} {accepts : Tag → Bool} {result : Tag → List Nat → Tag × List Nat}
    (hempty : (s.slot pa).tag ≠ .empty) (haccepts : accepts (s.slot pa).tag = true)
    (hresult : result (s.slot pa).tag (s.coeffs pa) = (tag, v)) :
    unarySlot pd pa accepts result s = .done (s.setSlot pd tag v) :=
  unarySlot_eq_done.mpr ⟨hempty, haccepts, by rw [hresult]⟩

/-- Residues modulo `Q` fit into a cell. -/
theorem lt_cell_of_lt_q {p : Params} (hp : p.Legal) (h : ∀ x ∈ v, x < p.q) : ∀ x ∈ v, x < 2 ^ 32 :=
  fun x hx => ((h x hx).trans hp.q_lt).trans (by norm_num)

theorem coeff_lt_q (hs : s.ResiduesOk) (hlen : (s.coeffs pd).length = s.params.d)
    (h : (s.slot pd).tag = .coef ∨ (s.slot pd).tag = .ntt) {j : Nat} (hj : j < s.params.d) :
    s.coeff pd j < s.params.q := coeffs_lt hs h _ (at0_mem (f := s.coeffs pd) (hlen ▸ hj))

/-- R18: the modulus a command selects, and its residues fit into a cell. -/
theorem modulus_range {p : Params} (hp : p.Legal) {msel : BitVec 2} {mbits : BitVec 6}
    (h : modOk msel mbits = true) : 0 < modulus p msel mbits ∧ modulus p msel mbits ≤ 2 ^ 32 := by
  have hq := legal_q_pos hp
  have hlt := hp.q_lt
  unfold modOk at h
  rw [modulus.eq_def]
  generalize msel.toNat = m at h ⊢
  match m with
  | 0 => exact (show 0 < p.q ∧ p.q ≤ 2 ^ 32 by omega)
  | 1 => exact (show 0 < 2 * p.q ∧ 2 * p.q ≤ 2 ^ 32 by omega)
  | 2 =>
    have hbits := of_decide_eq_true h
    exact ⟨Nat.two_pow_pos _, Nat.pow_le_pow_right two_pos hbits.2⟩
  | m + 3 => cases h

theorem modOk_of_wellFormed (hw : i.wellFormed s.params = true) : i.modulusOk = true := by
  simp only [Instr.wellFormed, Bool.and_eq_true] at hw
  obtain ⟨⟨⟨-, hmod⟩, -⟩, -⟩ := hw
  exact hmod

end SlotCommands

/-! ### The transforms -/

theorem ntt_ends {s : State} {pd pa : BitVec 8} (hs : s.Sound) (h : noCause (.ntt pd pa) s) :
    ∃ t, exec (.ntt pd pa) s = .next t ∧ t.Holds pd .ntt (at0 (nttf s.params (s.coeffs pa))) ∧ SlotFrame s t pd := by
  obtain ⟨hw, -, hempty, hdomain, -⟩ := h
  have htag : (s.slot pa).tag = .coef := not_not.mp hdomain
  have hrun : execNtt pd pa s = .next (s.setSlot pd .ntt (nttf s.params (s.coeffs pa))).finish :=
    runCommand_done hw (unarySlot_done hempty (by simp [htag]) rfl)
  exact slotCommand_ends hs hw (by simp [Instr.slots]) hrun (length_nttf hs.legal (coeffs_length hs.shape hempty))
    (lt_cell_of_lt_q hs.legal (nttf_lt hs.legal (coeffs_lt hs.residues (.inl htag)))) fun _ _ => rfl

theorem intt_ends {s : State} {pd pa : BitVec 8} (hs : s.Sound) (h : noCause (.intt pd pa) s) :
    ∃ t, exec (.intt pd pa) s = .next t ∧ t.Holds pd .coef (at0 (ntti s.params (s.coeffs pa))) ∧
      SlotFrame s t pd := by
  obtain ⟨hw, -, hempty, hdomain, -⟩ := h
  have htag : (s.slot pa).tag = .ntt := not_not.mp hdomain
  have hrun : execIntt pd pa s = .next (s.setSlot pd .coef (ntti s.params (s.coeffs pa))).finish :=
    runCommand_done hw (unarySlot_done hempty (by simp [htag]) rfl)
  exact slotCommand_ends hs hw (by simp [Instr.slots]) hrun (length_ntti hs.legal (coeffs_length hs.shape hempty))
    (lt_cell_of_lt_q hs.legal (ntti_lt hs.legal _)) fun _ _ => rfl

/-- Settles O16: both commands put the transform of the source into the destination. -/
theorem transformCommands : Obligations.TransformCommands := by
  unfold Obligations.TransformCommands
  exact fun s pd pa hs => ⟨ntt_ends hs, intt_ends hs⟩

/-! ### The pointwise commands -/

section Pointwise
variable {s : State} {pd pa pb : BitVec 8} {msel : BitVec 2} {mbits : BitVec 6}

theorem muln_ends (hs : s.Sound) (h : noCause (.muln pd pa pb) s) :
    ∃ t, exec (.muln pd pa pb) s = .next t ∧
      t.Holds pd .ntt (fun j => s.coeff pa j * s.coeff pb j % s.params.q) ∧ SlotFrame s t pd := by
  obtain ⟨hw, -, hempty, hdomain, -⟩ := h
  obtain ⟨hea, heb⟩ := not_or.mp hempty
  obtain ⟨hta, htb⟩ := not_not.mp hdomain
  have hla := coeffs_length hs.shape hea
  have hlb := coeffs_length hs.shape heb
  refine slotCommand_ends hs hw (by simp [Instr.slots])
    (runCommand_done hw (binarySlot_eq_done.mpr ⟨hea, heb, by simp [hta, htb], rfl⟩)) (by simp [mulPointwise, hla, hlb])
    (lt_cell_of_lt_q hs.legal (forall_mem_zipWith (P := (· < s.params.q))
      (fun _ _ => Nat.mod_lt _ (legal_q_pos hs.legal)) _ _)) fun j hj => ?_
  exact at0_zipWith _ (hla ▸ hj) (hlb ▸ hj)

/-- The tags `ADD` and `SUB` accept are those for which the table of causes has no `DomainError` (R87, R165). -/
theorem addTags_eq_true_iff {ta tb : Tag} : addTags msel ta tb = true ↔
    ¬if msel = 0 then ¬(ta = .coef ∧ tb = .coef ∨ ta = .ntt ∧ tb = .ntt) else ¬(ta = .raw ∧ tb = .raw) := by
  unfold addTags
  by_cases hm : msel = 0
  · simp only [if_pos hm, not_not]
    simp only [Bool.and_eq_true, Bool.or_eq_true, beq_iff_eq]
    constructor
    · rintro ⟨rfl, rfl | rfl⟩ <;> simp
    · rintro (⟨rfl, rfl⟩ | ⟨rfl, rfl⟩) <;> simp
  · simp only [if_neg hm, not_not, Bool.and_eq_true, beq_iff_eq]

/-- `ADD` and `SUB`: an operation on two coefficients that gives values below the modulus. -/
theorem modularSlot_ends (i : Instr) (op : Nat → Nat → Nat) (hs : s.Sound) (h : noCause i s)
    (hi : i = .add pd pa pb msel mbits ∨ i = .sub pd pa pb msel mbits)
    {body : State → Result} (hexec : exec i s = runCommand i noPrep body s)
    (hbody : body s = binarySlot pd pa pb (addTags msel) (s.slot pa).tag (List.zipWith op) s)
    (hop : 0 < modulus s.params msel mbits → ∀ a b, op a b < modulus s.params msel mbits) :
    ∃ t, exec i s = .next t ∧ t.Holds pd (s.slot pa).tag (fun j => op (s.coeff pa j) (s.coeff pb j)) ∧
      SlotFrame s t pd := by
  obtain ⟨hw, -, hempty, hdomain, -⟩ := h
  have hempty : ¬((s.slot pa).tag = .empty ∨ (s.slot pb).tag = .empty) := by
    rcases hi with rfl | rfl <;> exact hempty
  have hadd : addTags msel (s.slot pa).tag (s.slot pb).tag = true := by
    rcases hi with rfl | rfl <;> exact addTags_eq_true_iff.mpr hdomain
  have hmod : modOk msel mbits = true := by
    have hmodulus := modOk_of_wellFormed hw
    rcases hi with rfl | rfl <;> exact hmodulus
  have hpd : pd ∈ i.slots := by rcases hi with rfl | rfl <;> simp [Instr.slots]
  obtain ⟨hea, heb⟩ := not_or.mp hempty
  obtain ⟨hpos, hle⟩ := modulus_range hs.legal hmod
  have hla := coeffs_length hs.shape hea
  have hlb := coeffs_length hs.shape heb
  have hdone := hbody.trans (binarySlot_eq_done.mpr ⟨hea, heb, hadd, rfl⟩)
  refine slotCommand_ends hs hw hpd (hexec.trans (runCommand_done hw hdone)) (by simp [hla, hlb])
    (forall_mem_zipWith (P := (· < 2 ^ 32)) (fun a b => (hop hpos a b).trans_le hle) _ _) fun j hj => ?_
  exact at0_zipWith _ (hla ▸ hj) (hlb ▸ hj)

end Pointwise

theorem exec_add (s : State) (pd pa pb : BitVec 8) (msel : BitVec 2) (mbits : BitVec 6) :
    exec (.add pd pa pb msel mbits) s = runCommand (.add pd pa pb msel mbits) noPrep
      (fun s => binarySlot pd pa pb (addTags msel) (s.slot pa).tag (addMod (modulus s.params msel mbits)) s) s := rfl

theorem exec_sub (s : State) (pd pa pb : BitVec 8) (msel : BitVec 2) (mbits : BitVec 6) :
    exec (.sub pd pa pb msel mbits) s = runCommand (.sub pd pa pb msel mbits) noPrep
      (fun s => binarySlot pd pa pb (addTags msel) (s.slot pa).tag (subMod (modulus s.params msel mbits)) s) s := rfl

/-- Settles O17: each command is its operation on the coefficients of the two sources. -/
theorem pointwiseCommands : Obligations.PointwiseCommands := by
  unfold Obligations.PointwiseCommands
  intro s pd pa pb msel mbits hs
  refine ⟨muln_ends hs, fun h => ?_, fun h => ?_⟩
  · exact modularSlot_ends (.add pd pa pb msel mbits) (fun a b => (a + b) % modulus s.params msel mbits) hs h
      (.inl rfl) (exec_add s pd pa pb msel mbits) rfl fun hpos _ _ => Nat.mod_lt _ hpos
  · exact modularSlot_ends (.sub pd pa pb msel mbits) (fun a b => imod ((a : Int) - b) (modulus s.params msel mbits))
      hs h (.inr rfl) (exec_sub s pd pa pb msel mbits) rfl fun hpos _ _ => imod_lt _ hpos

/-! ### Scaling and signed normalization -/

theorem scale_ends {s : State} {pd pa : BitVec 8} {imm32 : BitVec 32} (hs : s.Sound)
    (h : noCause (.scale pd pa imm32) s) :
    ∃ t, exec (.scale pd pa imm32) s = .next t ∧
      t.Holds pd (s.slot pa).tag (fun j => s.coeff pa j * imm32.toNat % s.params.q) ∧ SlotFrame s t pd := by
  obtain ⟨hw, -, hempty, hdomain, -⟩ := h
  have htag : (s.slot pa).tag = .coef ∨ (s.slot pa).tag = .ntt := not_not.mp hdomain
  have hlen := coeffs_length hs.shape hempty
  refine slotCommand_ends hs hw (by simp [Instr.slots])
    (runCommand_done hw (unarySlot_done hempty (by simpa using htag) rfl)) (by simp [scaleBy, hlen])
    (lt_cell_of_lt_q hs.legal (List.forall_mem_map.mpr fun _ _ => Nat.mod_lt _ (legal_q_pos hs.legal)))
    fun j hj => ?_
  exact (at0_map _ (hlen ▸ hj) 0).trans (Nat.mul_mod_mod _ _ _)

/-- R93: the 32-bit pattern of the signed representative. -/
theorem imod_signedRep {q x : Nat} (hq : q < 2 ^ 31) (hx : x < q) :
    imod (signedRep q x) (2 ^ 32) = if 2 * x ≤ q then x else 2 ^ 32 + x - q := by
  unfold signedRep imod
  split <;> omega

theorem snorm_ends {s : State} {pd pa : BitVec 8} (hs : s.Sound) (h : noCause (.snorm pd pa) s) :
    ∃ t, exec (.snorm pd pa) s = .next t ∧
      t.Holds pd .raw (fun j =>
        if 2 * s.coeff pa j ≤ s.params.q then s.coeff pa j else 2 ^ 32 + s.coeff pa j - s.params.q) ∧
      SlotFrame s t pd := by
  obtain ⟨hw, -, hempty, hdomain, -⟩ := h
  have htag : (s.slot pa).tag = .coef := not_not.mp hdomain
  have hlen := coeffs_length hs.shape hempty
  refine slotCommand_ends hs hw (by simp [Instr.slots])
    (runCommand_done hw (unarySlot_done hempty (by simp [htag]) rfl)) (by simp [hlen])
    (List.forall_mem_map.mpr fun _ _ => imod_lt _ (by norm_num)) fun j hj => ?_
  exact (at0_map _ (hlen ▸ hj) 0).trans (imod_signedRep hs.legal.q_lt (coeff_lt_q hs.residues hlen (.inl htag) hj))

/-- Settles O18: the two commands, coefficient by coefficient. -/
theorem scaleAndSignedNormalize : Obligations.ScaleAndSignedNormalize := by
  unfold Obligations.ScaleAndSignedNormalize
  exact fun s pd pa imm32 hs => ⟨scale_ends hs, snorm_ends hs⟩

/-! ### The accumulator, cleared and reduced -/

theorem execAclr_eq (s : State) :
    execAclr s = .next ({ s with acc := List.replicate s.params.d 0, accValid := true } : State).finish := rfl

theorem aclr_ends (s : State) :
    ∃ t, exec .aclr s = .next t ∧ t = { s with acc := t.acc, accValid := true, phase := .idle, flight := none } ∧
      t.acc.length = s.params.d ∧ ∀ a ∈ t.acc, a = 0 :=
  ⟨_, execAclr_eq s, rfl, List.length_replicate, fun _ => List.eq_of_mem_replicate⟩

theorem ared_ends {s : State} {pd : BitVec 8} {msel : BitVec 2} {mbits : BitVec 6} (hs : s.Sound)
    (h : noCause (.ared pd msel mbits) s) :
    ∃ t, exec (.ared pd msel mbits) s = .next t ∧
      t.Holds pd (if msel = 0 then .coef else .raw)
        (fun j => ((s.acc.getD j 0).toInt % (modulus s.params msel mbits : Int)).toNat) ∧ SlotFrame s t pd := by
  obtain ⟨hw, -, hempty, -⟩ := h
  have hvalid : s.accValid = true := Bool.eq_true_of_not_eq_false hempty
  obtain ⟨-, -, hacc, -⟩ := hs.shape
  obtain ⟨hpos, hle⟩ := modulus_range hs.legal (modOk_of_wellFormed hw)
  have hrun : execAred pd msel mbits s =
      .next (s.setSlot pd (modTag msel) (s.acc.map fun a => imod a.toInt (modulus s.params msel mbits))).finish :=
    runCommand_done hw (require_of hvalid _ _)
  refine slotCommand_ends hs hw (by simp [Instr.slots]) hrun (by simp [hacc])
    (List.forall_mem_map.mpr fun _ _ => (imod_lt _ hpos).trans_le hle) fun j hj => ?_
  exact at0_map _ (hacc ▸ hj) 0

/-- Settles O19: `ACLR` always ends, and `ARED` reduces cell by cell. -/
theorem accumulatorClearAndReduce : Obligations.AccumulatorClearAndReduce := by
  unfold Obligations.AccumulatorClearAndReduce
  exact fun s pd msel mbits hs => ⟨aclr_ends s, ared_ends hs⟩

/-! ### The matrix entry -/

/-- Settles O21: the entry lies in the matrix store, as the configuration in force is legal. -/
theorem copyMatrixEntry : Obligations.CopyMatrixEntry := by
  unfold Obligations.CopyMatrixEntry
  intro s pd sub sub2 hs h
  obtain ⟨hw, hparam, hempty, -⟩ := h
  have hcfg : s.cfgValid = true := Bool.eq_true_of_not_eq_false fun hcfg => hparam (.inl hcfg)
  have hrow : sub.toNat < s.cfgM := not_le.mp fun hle => hparam (.inr (.inl hle))
  have hcol : sub2.toNat < s.cfgN := not_le.mp fun hle => hparam (.inr (.inr hle))
  have hvalid : s.aValid = true := Bool.eq_true_of_not_eq_false hempty
  have hrun : execGeta pd sub sub2 s =
      .next (s.setSlot pd .ntt (natsOf (s.entry sub.toNat sub2.toNat))).finish :=
    runCommand_done hw
      (requireConfig_eq_done.mpr ⟨hcfg, require_eq_done.mpr ⟨⟨hrow, hcol⟩, require_of hvalid _ _⟩⟩)
  obtain ⟨hconfig, -⟩ := hs.config
  have hlen := (SlotResult.geta (pd := pd) hcfg hrow hcol).length hs.legal hconfig hs.shape
  refine slotCommand_ends hs hw (by simp [Instr.slots]) hrun hlen
    (lt_cell_of_lt_q hs.legal (entry_lt hs.residues _ _)) fun j hj => ?_
  rw [length_natsOf] at hlen
  exact at0_map _ (hlen ▸ hj) 0

end Sys2Proof.Machine
end

section
/-! SUPPORT. The multiply-accumulate command (`41_ringarith.md` R91): the schoolbook loop adds the negacyclic
convolution, monomial by monomial. -/

namespace Sys2Proof.Machine

/-- `mulX` takes the product with one monomial to the product with the next. -/
theorem getD_mulX {g : Nat → Int} {d i : Nat} {h : List Int} (hlen : h.length = d) (hi : i < d)
    (hh : ∀ k < d, h.getD k 0 = monomialMul g d i k) {k : Nat} (hk : k < d) :
    (mulX h).getD k 0 = monomialMul g d (i + 1) k := by
  have hlast : h.getLast? = some (h.getD (d - 1) 0) := by
    rw [List.getLast?_eq_getElem?, hlen, List.getElem?_eq_getElem (by omega), List.getD_eq_getElem]
  simp only [mulX, hlast]
  cases k with
  | zero =>
    rw [List.getD_cons_zero, hh _ (by omega), monomialMul, monomialMul, if_pos (by omega), if_neg (by omega)]
    congr 2
    omega
  | succ k =>
    have hinit : h.dropLast.getD k 0 = h.getD k 0 := by
      rw [List.getD_eq_getElem _ _ (by rw [List.length_dropLast]; omega), List.getElem_dropLast,
        List.getD_eq_getElem _ _ (by omega)]
    rw [List.getD_cons_succ, hinit, hh k (by omega), monomialMul, monomialMul]
    by_cases hik : i ≤ k
    · rw [if_pos hik, if_pos (by omega), Nat.add_sub_add_right]
    · rw [if_neg hik, if_neg (by omega)]
      congr 2
      omega

/-- The loop from coefficient `i` of the first factor on, with the second factor times the monomial of degree `i`. -/
theorem getD_polyMulAdd {g : Nat → Int} {d i : Nat} {acc f h : List Int} (hacc : acc.length = d)
    (hlen : h.length = d) (hi : i + f.length ≤ d) (hh : ∀ k < d, h.getD k 0 = monomialMul g d i k) {k : Nat}
    (hk : k < d) :
    (polyMulAdd acc f h).getD k 0 =
      acc.getD k 0 + ∑ a ∈ Finset.range f.length, f.getD a 0 * monomialMul g d (i + a) k := by
  induction f generalizing acc h i with
  | nil => simp [polyMulAdd]
  | cons x f ih =>
    rw [List.length_cons] at hi
    have hcell : (List.zipWith (fun c y => c + x * y) acc h).getD k 0 = acc.getD k 0 + x * h.getD k 0 := by
      simp [List.getD_eq_getElem?_getD, hacc ▸ hk, hlen ▸ hk]
    rw [polyMulAdd, ih (i := i + 1) (by simp [hacc, hlen]) ((length_mulX h).trans hlen) (by omega)
      (fun k hk => getD_mulX hlen (by omega) hh hk), hcell, hh k hk, List.length_cons, Finset.sum_range_succ']
    simp only [List.getD_cons_succ, List.getD_cons_zero, Nat.add_zero, Nat.add_assoc, Nat.add_comm 1]
    ring

/-- The schoolbook product added to the accumulator is the negacyclic convolution. -/
theorem getD_polyMulAdd_convolution {d : Nat} {acc f g : List Int} (hacc : acc.length = d) (hf : f.length = d)
    (hg : g.length = d) {k : Nat} (hk : k < d) :
    (polyMulAdd acc f g).getD k 0 =
      acc.getD k 0 + convolution d (fun i => f.getD i 0) (fun j => g.getD j 0) k := by
  have hstart : ∀ k < d, g.getD k 0 = monomialMul (fun j => g.getD j 0) d 0 k := fun k _ => by simp [monomialMul]
  rw [getD_polyMulAdd hacc hg (by omega) hstart hk, convolution_eq_sum, hf]
  simp only [Nat.zero_add]

/-- A cell of the accumulator after `MACS`. -/
theorem getD_macAcc {d : Nat} {acc : List AccCell} {f g : List Nat} (hacc : acc.length = d) (hf : f.length = d)
    (hg : g.length = d) {k : Nat} (hk : k < d) :
    (macAcc acc f g).getD k 0 =
      BitVec.ofInt 64
        ((acc.getD k 0).toInt + convolution d (fun i => (at0 f i : Int)) (fun j => (at0 g j : Int)) k) := by
  have hints (v : List Nat) (j : Nat) : (v.map Int.ofNat).getD j 0 = (at0 v j : Int) :=
    List.getD_map v 0 Int.ofNat
  have hcells : (acc.map BitVec.toInt).getD k 0 = (acc.getD k 0).toInt := List.getD_map acc 0 BitVec.toInt
  have hmac : (macAcc acc f g).getD k 0 =
      BitVec.ofInt 64 ((polyMulAdd (acc.map BitVec.toInt) (f.map Int.ofNat) (g.map Int.ofNat)).getD k 0) :=
    (List.getD_map (d := (0 : Int)) (f := BitVec.ofInt 64) ..)
  have hadd := getD_polyMulAdd_convolution (d := d) (acc := acc.map BitVec.toInt) (f := f.map Int.ofNat)
    (g := g.map Int.ofNat) (by simpa using hacc) (by simpa using hf) (by simpa using hg) hk
  simp only [hints, hcells] at hadd
  rw [hmac, hadd]

/-- Settles O20: the checks pass, and every cell gets its coefficient of the convolution, wrapped once (log 14). -/
theorem multiplyAccumulate : Obligations.MultiplyAccumulate := by
  unfold Obligations.MultiplyAccumulate
  intro s pa pb hs h
  obtain ⟨hw, -, hempty, hdomain, -⟩ := h
  obtain ⟨hinvalid, hsources⟩ := not_or.mp hempty
  obtain ⟨hea, heb⟩ := not_or.mp hsources
  obtain ⟨hta, htb⟩ := not_not.mp hdomain
  have hvalid : s.accValid = true := Bool.eq_true_of_not_eq_false hinvalid
  have htags : (macTag (s.slot pa).tag && macTag (s.slot pb).tag) = true := by simpa [macTag] using ⟨hta, htb⟩
  have hla := coeffs_length hs.shape hea
  have hlb := coeffs_length hs.shape heb
  obtain ⟨-, -, hacc, -⟩ := hs.shape
  have hrun : execMacs pa pb s =
      .next ({ s with acc := macAcc s.acc (s.coeffs pa) (s.coeffs pb) } : State).finish := by
    unfold execMacs
    exact runCommand_done (u := { s with acc := macAcc s.acc (s.coeffs pa) (s.coeffs pb) }) hw
      (require_eq_done.mpr ⟨hvalid,
        requireFull_eq_done.mpr ⟨hea, requireFull_eq_done.mpr ⟨heb, require_of htags _ _⟩⟩⟩)
  exact ⟨_, hrun, rfl, (length_macAcc (hlb.trans hacc.symm)).trans hacc, fun k hk => getD_macAcc hacc hla hlb hk⟩

end Sys2Proof.Machine
end

section
/-! SUPPORT. The rejection loops (`42_sampler.md` R106, R107, R110), said once for all three: where every draw gives
nothing or a fixed number of values that divides the number needed, the loop gives the accepted values in order. -/

namespace Sys2Proof.Machine

/-- The values that the first `n` draws from position `pos` on are accepted for, in order. -/
def drawn {α : Type} (draw : Nat → List α) (width pos n : Nat) : List α :=
  (List.range n).flatMap fun k => draw (pos + k * width)

section Drawn
variable {α : Type} {draw : Nat → List α} {width : Nat}

@[simp] theorem drawn_zero (pos : Nat) : drawn draw width pos 0 = [] := rfl

/-- The first draw, then the others from the position after it. -/
theorem drawn_succ (pos n : Nat) :
    drawn draw width pos (n + 1) = draw pos ++ drawn draw width (pos + width) n := by
  simp only [drawn, List.range_succ_eq_map, List.flatMap_cons, List.flatMap_map, Nat.zero_mul, Nat.add_zero]
  refine congrArg (draw pos ++ ·) (List.flatMap_congr fun k _ => ?_)
  rw [Nat.succ_mul, Nat.add_assoc, Nat.add_comm width]

/-- A draw that gives nothing or `c` values, where a multiple of `c` is needed, gives no value too many, and what is
needed after it is again a multiple of `c`. -/
theorem draw_fits {c pos need : Nat} (hdraw : ∀ k, (draw k).length = 0 ∨ (draw k).length = c) (hc : c ∣ need)
    (hneed : 0 < need) : (draw pos).length ≤ need ∧ c ∣ need - (draw pos).length := by
  rcases hdraw pos with h | h <;> rw [h]
  · exact ⟨Nat.zero_le _, hc⟩
  · exact ⟨Nat.le_of_dvd hneed hc, Nat.dvd_sub hc dvd_rfl⟩

/-- Nothing is needed: no draw is made. -/
theorem collect_zero (budget pos : Nat) : collect draw width budget 0 pos = some ([], pos) := by
  cases budget <;> rfl

/-- One draw that gives no value too many, and the loop for what is needed after it. -/
theorem collect_succ {budget need pos : Nat} (hneed : 0 < need) (hfits : (draw pos).length ≤ need) :
    collect draw width (budget + 1) need pos =
      (collect draw width budget (need - (draw pos).length) (pos + width)).map fun x => (draw pos ++ x.1, x.2) := by
  obtain ⟨r, rfl⟩ := Nat.exists_eq_succ_of_ne_zero hneed.ne'
  simp only [collect, Nat.succ_eq_add_one, List.take_of_length_le hfits]
  cases collect draw width budget (r + 1 - (draw pos).length) (pos + width) <;> rfl

/-- Where nothing is needed, no draw at all is the fewest that are enough. -/
theorem collect_zero_eq_some_iff {budget pos : Nat} {v : List α} {pos' : Nat} :
    collect draw width budget 0 pos = some (v, pos') ↔
      ∃ n, n ≤ budget ∧ pos' = pos + n * width ∧ v.length = 0 ∧ v = drawn draw width pos n ∧
        ∀ m, m < n → (drawn draw width pos m).length < 0 := by
  rw [collect_zero]
  constructor
  · rintro ⟨⟩
    exact ⟨0, by simp⟩
  · rintro ⟨n, -, rfl, -, rfl, hmin⟩
    have hn : n = 0 := Nat.eq_zero_of_not_pos fun hn => Nat.not_lt_zero _ (hmin 0 hn)
    simp [hn]

/-- A rejection loop gives the accepted values of the first draws that are enough. -/
theorem collect_eq_some_iff {c budget need pos : Nat} (hdraw : ∀ k, (draw k).length = 0 ∨ (draw k).length = c)
    (hc : c ∣ need) {v : List α} {pos' : Nat} :
    collect draw width budget need pos = some (v, pos') ↔
      ∃ n, n ≤ budget ∧ pos' = pos + n * width ∧ v.length = need ∧ v = drawn draw width pos n ∧
        ∀ m, m < n → (drawn draw width pos m).length < need := by
  induction budget generalizing need pos v with
  | zero =>
    cases need with
    | zero => exact collect_zero_eq_some_iff
    | succ r =>
      refine iff_of_false (by simp [collect]) ?_
      rintro ⟨n, hn, -, hlen, rfl, -⟩
      simp [Nat.le_zero.mp hn] at hlen
  | succ b ih =>
    rcases Nat.eq_zero_or_pos need with rfl | hneed
    · exact collect_zero_eq_some_iff
    obtain ⟨hfits, hrest⟩ := draw_fits (pos := pos) hdraw hc hneed
    rw [collect_succ hneed hfits, Option.map_eq_some_iff]
    constructor
    · rintro ⟨⟨rest, q⟩, hrec, ⟨⟩⟩
      obtain ⟨n, hn, rfl, hlen, rfl, hmin⟩ := (ih hrest).mp hrec
      refine ⟨n + 1, by omega, by ring, by rw [List.length_append, hlen]; omega, (drawn_succ pos n).symm,
        fun m hm => ?_⟩
      cases m with
      | zero => exact hneed
      | succ m =>
        have := hmin m (by omega)
        rw [drawn_succ, List.length_append]
        omega
    · rintro ⟨n, hn, rfl, hlen, rfl, hmin⟩
      cases n with
      | zero => exact absurd hlen hneed.ne
      | succ n =>
        rw [drawn_succ, List.length_append] at hlen
        refine ⟨_, (ih hrest).mpr ⟨n, by omega, by ring, by omega, rfl, fun m hm => ?_⟩, ?_⟩
        · have := hmin (m + 1) (by omega)
          rw [drawn_succ, List.length_append] at this
          omega
        · rw [drawn_succ]

/-- Two attempts at a rejection loop that both end give the same. -/
theorem collect_unique {budget budget' need pos : Nat} {r r' : List α × Nat}
    (h : collect draw width budget need pos = some r) (h' : collect draw width budget' need pos = some r') : r = r' :=
  Option.some.inj ((collect_mono (le_max_left budget budget') h).symm.trans
    (collect_mono (le_max_right budget budget') h'))

end Drawn

/-! ### The draws -/

theorem length_drawUniform (p : Params) (st : Nat → Byte) (pos : Nat) :
    (drawUniform p st pos).length = 0 ∨ (drawUniform p st pos).length = 1 := by
  simp only [drawUniform]
  split
  · exact .inr rfl
  · exact .inl rfl

theorem length_drawTernary (st : Nat → Byte) (pos : Nat) :
    (drawTernary st pos).length = 0 ∨ (drawTernary st pos).length = 1 := by
  unfold drawTernary
  split
  · exact .inr rfl
  · exact .inl rfl

theorem length_drawGaussian (p : Params) (sigma : Word) (st : Nat → Byte) (pos : Nat) :
    (drawGaussian p sigma st pos).length = 0 ∨ (drawGaussian p sigma st pos).length = 2 := by
  simp only [drawGaussian]
  split
  · exact .inl rfl
  · exact .inr rfl

/-- The accepted ones of values drawn one by one. -/
theorem flatMap_accepted {α : Type} (l : List Nat) (c : Nat → Prop) [DecidablePred c] (f : Nat → α) :
    (l.flatMap fun k => if c k then [f k] else []) = l.filterMap fun k => if c k then some (f k) else none := by
  rw [List.filterMap_eq_flatMap_toList]
  refine List.flatMap_congr fun k _ => ?_
  split <;> rfl

theorem drawn_drawUniform (p : Params) (st : Nat → Byte) (pos n : Nat) :
    drawn (drawUniform p st) (qbytes p) pos n =
      (List.range n).filterMap fun k =>
        if streamInt st (pos + k * qbytes p) (qbytes p) % 2 ^ qbits p < p.q then
          some (streamInt st (pos + k * qbytes p) (qbytes p) % 2 ^ qbits p) else none :=
  flatMap_accepted _ _ _

theorem drawn_drawTernary (st : Nat → Byte) (pos n : Nat) :
    drawn (drawTernary st) 1 pos n =
      (List.range n).filterMap fun k => if (st (pos + k)).toNat < 243 then some (st (pos + k)) else none := by
  simp only [← flatMap_accepted, drawn, Nat.mul_one, drawTernary]

/-- Settles O44: each sampler is a rejection loop whose draws give one value, or two where `D` is even, or none. -/
theorem rejectionLoops : Obligations.RejectionLoops := by
  unfold Obligations.RejectionLoops
  intro p st b pos pos'
  refine ⟨fun v => ?_, fun v => ?_, fun hd sigma v => ?_⟩
  · simp only [sampleUniform, collect_eq_some_iff (length_drawUniform p st) (one_dvd _), drawn_drawUniform]
    rfl
  · simp only [sampleTernary, collect_eq_some_iff (length_drawTernary st) (one_dvd _), drawn_drawTernary, Nat.mul_one]
    rfl
  · rw [sampleGaussian, collect_eq_some_iff (length_drawGaussian p sigma st) (Nat.dvd_of_mod_eq_zero hd)]
    unfold drawn drawGaussian
    -- what the map gives plays no part: the two sides read the same draws
    generalize gaussMap p = map
    rfl

end Sys2Proof.Machine
end

section
/-! SUPPORT. What a model may assume of `GAUSSMAP` (`42_sampler.md` R96): the radius of the integer draws is `2^126`
times the rational one. -/

namespace Sys2Proof.Machine

theorem radiusNum_eq (g : GaussArg) :
    (radiusNum g : ℚ) =
      2 ^ 126 * ((((g.tx.toInt : ℚ) + 1) / 2 ^ 63) ^ 2 + (((g.ty.toInt : ℚ) + 1) / 2 ^ 63) ^ 2) := by
  simp only [radiusNum, fixNum]
  push_cast
  ring

theorem radiusNum_nonneg (g : GaussArg) : 0 ≤ radiusNum g :=
  add_nonneg (mul_self_nonneg _) (mul_self_nonneg _)

theorem gaussMap_eq_none_iff (p : Params) (g : GaussArg) :
    gaussMap p g = none ↔ radiusNum g = 0 ∨ 2 ^ 126 < radiusNum g := by
  unfold gaussMap
  split
  · simp_all
  · rename_i h
    refine iff_of_false ?_ h
    split
    · simp
    · split <;> simp

theorem gaussMap_of_radiusNum (p : Params) {g : GaussArg} (h : radiusNum g = 2 ^ 126) :
    gaussMap p g = some (0, 0) := by
  simp [gaussMap, h]

/-- Settles O45: the exact comparison of `s` with 0 and 1 is the one of `2^126 * s` on integers. -/
theorem gaussmapProperties : Obligations.GaussmapProperties := by
  unfold Obligations.GaussmapProperties
  intro p g s hs
  have hradius : (radiusNum g : ℚ) = 2 ^ 126 * s := by rw [hs, radiusNum_eq]
  have hpos : 0 < s ↔ 0 < radiusNum g := by
    rw [← Int.cast_pos (R := ℚ), hradius, mul_pos_iff_of_pos_left (by norm_num)]
  have hle : s ≤ 1 ↔ radiusNum g ≤ 2 ^ 126 := by
    rw [← Int.cast_le (R := ℚ), hradius]
    push_cast
    exact (mul_le_iff_le_one_right (by norm_num)).symm
  refine ⟨?_, fun h => gaussMap_of_radiusNum p ?_⟩
  · have := radiusNum_nonneg g
    rw [gaussMap_eq_none_iff, hpos, hle]
    omega
  · rw [h, mul_one] at hradius
    exact_mod_cast hradius

end Sys2Proof.Machine
end

section
/-! SUPPORT. The Sampler commands (`42_sampler.md` R98 to R105): where no cause of an error is present, what stands in
the slot, in `BMEM` and in the stream context afterwards, and that nothing else changes. -/

namespace Sys2Proof.Machine

/-! ### Small secrets, place by place -/

/-- A place in strings of one length put together. -/
theorem at0_flatMap {α : Type} {l : List α} {f : α → List Nat} {n j : Nat} (hlen : ∀ x ∈ l, (f x).length = n)
    (hj : j < l.length * n) (d : α) : at0 (l.flatMap f) j = at0 (f (l.getD (j / n) d)) (j % n) := by
  have hn : 0 < n := Nat.pos_of_mul_pos_left (Nat.zero_lt_of_lt hj)
  induction l generalizing j with
  | nil => simp at hj
  | cons x rest ih =>
    have hx : (f x).length = n := hlen x (by simp)
    rw [List.flatMap_cons]
    by_cases hjn : j < n
    · rw [at0_append_left (hx.symm ▸ hjn), Nat.div_eq_of_lt hjn, Nat.mod_eq_of_lt hjn, List.getD_cons_zero]
    · have hle : n ≤ j := not_lt.mp hjn
      rw [List.length_cons, Nat.succ_mul] at hj
      rw [at0_append_right (hx.symm ▸ hle), hx, ih (fun y hy => hlen y (by simp [hy])) (by omega),
        Nat.div_eq_sub_div hn hle, List.getD_cons_succ, Nat.mod_eq_sub_mod hle]

theorem at0_digits {w n k : Nat} (x : Nat) (hk : k < n) : at0 (digits w n x) k = x / 2 ^ (w * k) % 2 ^ w := by
  induction n generalizing x k with
  | zero => exact absurd hk (Nat.not_lt_zero k)
  | succ n ih =>
    cases k with
    | zero => simp [digits, at0]
    | succ k =>
      have hrest : at0 (digits w (n + 1) x) (k + 1) = at0 (digits w n (x / 2 ^ w)) k := rfl
      rw [hrest, ih _ (by omega), Nat.div_div_eq_div_mul, ← Nat.pow_add, Nat.mul_succ, Nat.add_comm w]

theorem at0_trits (b : Byte) {k : Nat} (hk : k < 5) : at0 (trits b) k = b.toNat / 3 ^ k % 3 := by
  rw [trits, at0_map _ (by simpa using hk) 0]
  simp [hk]

theorem getD_readBytes (m : Memory) (a : Nat) {n k : Nat} (hk : k < n) :
    (Memory.readBytes m a n).getD k 0 = Memory.read m (a + k) := by
  simp [Memory.readBytes, hk]

/-- R108: the residue of the signed digit at place `j` of a ternary secret in memory. -/
theorem at0_decodeTernary (p : Params) (m : Memory) (a q : Nat) {j : Nat} (hj : j < p.d) :
    at0 ((decodeTernary p (Memory.readBytes m a (szt p))).map fun t => imod t q) j =
      imod (((Memory.read m (a + j / 5)).toNat / 3 ^ (j % 5) % 3 : Nat) - 1) q := by
  have hplace : j < szt p * 5 := hj.trans_le (le_mul_ceilDiv p.d (by omega))
  have hbytes : j < ((Memory.readBytes m a (szt p)).flatMap trits).length := by
    rwa [length_flatMap_of_forall (n := 5) (by simp [trits]), Memory.length_readBytes]
  have hdigit : (((Memory.readBytes m a (szt p)).flatMap trits).take p.d).getD j 0 =
      (Memory.read m (a + j / 5)).toNat / 3 ^ (j % 5) % 3 := by
    rw [← at0, at0_take hj, at0_flatMap (n := 5) (by simp [trits]) (by simpa using hplace) 0,
      getD_readBytes m a (by omega), at0_trits _ (Nat.mod_lt _ (by omega))]
  rw [decodeTernary_eq_map, List.map_map, at0_map _ (by rw [List.length_take]; omega) 0, hdigit]
  rfl

/-- R109: the bit at place `j` of a binary secret in memory. -/
theorem at0_decodeBinary (p : Params) (m : Memory) (a : Nat) {j : Nat} (hj : j < p.d) :
    at0 ((decodeBinary p (Memory.readBytes m a (szb p))).map Int.toNat) j =
      (Memory.read m (a + j / 8)).toNat / 2 ^ (j % 8) % 2 := by
  have hplace : j < szb p * 8 := hj.trans_le (le_mul_ceilDiv p.d (by omega))
  have hbits : (decodeBinary p (Memory.readBytes m a (szb p))).map Int.toNat =
      ((Memory.readBytes m a (szb p)).flatMap fun x => digits 1 8 x.toNat).take p.d := by
    rw [decodeBinary_eq_map, List.map_map]
    exact List.map_id _
  rw [hbits, at0_take hj, at0_flatMap (n := 8) (by simp) (by simpa using hplace) 0, getD_readBytes m a (by omega),
    at0_digits _ (Nat.mod_lt _ (by omega)), Nat.one_mul, pow_one]

section Commands
variable {s : State} {i : Instr}

/-! ### The checks -/

theorem inBmem_of_not_addrCause {addr n : Nat} (h : ¬addrCause i s)
    (hrange : (addr, n) ∈ inputRanges i s ++ outputRanges i s) : inBmem s.params addr n :=
  not_not.mp fun hout => h ⟨(addr, n), hrange, hout⟩

/-- R103: the modulus `aux8` selects, and its residues fit into a cell. -/
theorem auxModulus_range {p : Params} (hp : p.Legal) {aux8 : BitVec 8} (h : aux8.toNat ≤ 32) :
    0 < auxModulus p aux8 ∧ auxModulus p aux8 ≤ 2 ^ 32 := by
  have hlt := hp.q_lt
  unfold auxModulus
  split
  · exact ⟨legal_q_pos hp, by omega⟩
  · exact ⟨Nat.two_pow_pos _, Nat.pow_le_pow_right two_pos h⟩

theorem auxOk_of_wellFormed (hw : i.wellFormed s.params = true) : i.auxOk = true := by
  simp only [Instr.wellFormed, Bool.and_eq_true] at hw
  obtain ⟨-, haux⟩ := hw
  exact haux

/-! ### Streams opened -/

/-- A command that opens a stream context, by the kind of the stream. -/
theorem openStream_ends {kind : XofKind} {k : BitVec 2} {len addr : Nat}
    (hexec : exec i s = runCommand i noPrep (openStream kind k len addr) s)
    (hranges : (addr, len) ∈ inputRanges i s ++ outputRanges i s) (h : noCause i s) :
    ∃ t, exec i s = .next t ∧ t = { s with xs := t.xs, phase := .idle, flight := none } ∧
      t.stream k =
        { valid := true, kind := kind, seed := (List.range len).map fun j => Memory.read s.bmem (addr + j), pos := 0 } ∧
      ∀ k', k' ≠ k → t.stream k' = s.stream k' := by
  obtain ⟨hw, -, -, -, haddr, -⟩ := h
  have hin : inBmem s.params addr len := inBmem_of_not_addrCause haddr hranges
  exact ⟨_, hexec.trans (runCommand_done hw (openStream_eq_done.mpr ⟨hin, rfl⟩)), rfl, stream_setStream s k _,
    fun k' hk => stream_setStream_other s hk.symm _⟩

/-- Settles O22: both commands open the context on the bytes read, as the range check passes. -/
theorem openStreams : Obligations.OpenStreams := by
  unfold Obligations.OpenStreams
  intro s k len addr
  exact ⟨openStream_ends rfl (by simp [inputRanges]), openStream_ends rfl (by simp [inputRanges])⟩

/-! ### Samples put into a slot -/

/-- A command whose checks pass and which then writes the slot `pd` and moves the context `k` on to `pos`. -/
theorem sampleSlot_ends {pd : BitVec 8} {tag : Tag} {v : List Nat} {k : BitVec 2} {pos : Nat} (hs : s.Sound)
    (hw : i.wellFormed s.params = true) (hpd : pd ∈ i.slots)
    (hrun : exec i s = .next ((s.seek k pos).setSlot pd tag v).finish) (hlen : v.length = s.params.d)
    (hlt : ∀ x ∈ v, x < s.params.q) :
    ∃ t, exec i s = .next t ∧ t.Holds pd tag (at0 v) ∧ SampleFrame s t pd k pos :=
  ⟨_, hrun,
    setSlot_finish_holds (s := s.seek k pos) (slot_lt_of_wellFormed (s := s) hs.shape hw hpd) hlen
      (lt_cell_of_lt_q hs.legal hlt) fun _ _ => rfl,
    rfl, fun _ hn => slot_setSlot_other (s.seek k pos) hn.symm tag v, stream_setStream s k _,
    fun _ hk => stream_setStream_other s hk.symm _⟩

theorem smpu_ends {pd : BitVec 8} {k : BitVec 2} {sub : BitVec 4} {v : List Nat} {pos : Nat} (hs : s.Sound)
    (h : noCause (.smpu pd k sub) s)
    (hv : sampleUniform s.params (s.streamOf k) s.budget (s.stream k).pos = some (v, pos)) :
    ∃ t, exec (.smpu pd k sub) s = .next t ∧ t.Holds pd (if sub = 0 then .coef else .ntt) (at0 v) ∧
      SampleFrame s t pd k pos := by
  obtain ⟨hw, -, hempty, -⟩ := h
  have hvalid : (s.stream k).valid = true := Bool.eq_true_of_not_eq_false hempty
  have hrun : execSmpu pd k sub s =
      .next ((s.seek k pos).setSlot pd (if sub = 0 then .coef else .ntt) v).finish :=
    runCommand_done hw (requireStream_eq_done.mpr ⟨hvalid, sampled_eq_done.mpr ⟨v, pos, hv, rfl⟩⟩)
  exact sampleSlot_ends hs hw (by simp [Instr.slots]) hrun (sampleUniform_length hv) (sampleUniform_lt hv)

theorem smpg_ends {pd : BitVec 8} {k : BitVec 2} {sub : BitVec 4} {v : List Nat} {pos : Nat} (hs : s.Sound)
    (h : noCause (.smpg pd k sub) s)
    (hv : sampleGaussian s.params (if sub = 0 then s.sigma0 else s.sigma1) (s.streamOf k) s.budget (s.stream k).pos =
      some (v, pos)) :
    ∃ t, exec (.smpg pd k sub) s = .next t ∧ t.Holds pd .coef (at0 v) ∧ SampleFrame s t pd k pos := by
  obtain ⟨hw, hparam, hempty, -⟩ := h
  have hcfg : s.cfgValid = true := Bool.eq_true_of_not_eq_false hparam
  have hvalid : (s.stream k).valid = true := Bool.eq_true_of_not_eq_false hempty
  have hrun : execSmpg pd k sub s = .next ((s.seek k pos).setSlot pd .coef v).finish :=
    runCommand_done hw (requireConfig_eq_done.mpr
      ⟨hcfg, requireStream_eq_done.mpr ⟨hvalid, sampled_eq_done.mpr ⟨v, pos, hv, rfl⟩⟩⟩)
  exact sampleSlot_ends hs hw (by simp [Instr.slots]) hrun (sampleGaussian_length hv)
    (sampleGaussian_lt (legal_q_pos hs.legal) hv)

/-! ### Samples stored -/

theorem holds_writeBytes {m : Memory} (hm : Memory.wf m) (a : Nat) (bs : List Byte) :
    Memory.Holds (Memory.writeBytes m a bs) a bs [] :=
  fun _ hk _ => Memory.read_writeBytes_inside hm a bs hk

/-- A command whose checks pass and which then stores a byte string and moves the context `k` on to `pos`. -/
theorem sampleStore_ends {addr n : Nat} {b : List Byte} {k : BitVec 2} {pos : Nat} (hs : s.Sound)
    (hrun : exec i s = .next ((s.seek k pos).output [(addr, b)]).finish) (hlen : b.length = n) :
    ∃ t, exec i s = .next t ∧ Memory.Holds t.bmem addr b [] ∧ SampleStoreFrame s t [(addr, n)] k pos := by
  obtain ⟨hwf, -⟩ := hs.memory
  have hsame : Memory.SameOutside s.bmem (Memory.writeBytes s.bmem addr b) [(addr, n)] :=
    hlen ▸ sameOutside_output s.bmem [(addr, b)]
  exact ⟨_, hrun, holds_writeBytes hwf addr b, rfl, hsame, stream_setStream s k _,
    fun _ hk => stream_setStream_other s hk.symm _⟩

theorem smpt_ends {k : BitVec 2} {addr : BitVec 32} {v : List Byte} {pos : Nat} (hs : s.Sound)
    (h : noCause (.smpt k addr) s)
    (hv : sampleTernary s.params (s.streamOf k) s.budget (s.stream k).pos = some (v, pos)) :
    ∃ t, exec (.smpt k addr) s = .next t ∧ Memory.Holds t.bmem addr.toNat v [] ∧
      SampleStoreFrame s t [(addr.toNat, szt s.params)] k pos := by
  obtain ⟨hw, -, hempty, -, haddr, -⟩ := h
  have hvalid : (s.stream k).valid = true := Bool.eq_true_of_not_eq_false hempty
  have hin : inBmem s.params addr.toNat (szt s.params) := inBmem_of_not_addrCause haddr (by simp [outputRanges])
  have hrun : execSmpt k addr s = .next ((s.seek k pos).output [(addr.toNat, v)]).finish :=
    runCommand_done hw (requireStream_eq_done.mpr
      ⟨hvalid, requireRange_eq_done.mpr ⟨hin, sampled_eq_done.mpr ⟨v, pos, hv, rfl⟩⟩⟩)
  exact sampleStore_ends hs hrun (sampleTernary_length hv)

theorem smpb_ends {k : BitVec 2} {addr : BitVec 32} (hs : s.Sound) (h : noCause (.smpb k addr) s) :
    ∃ t, exec (.smpb k addr) s = .next t ∧
      Memory.Holds t.bmem addr.toNat (streamBytes (s.streamOf k) (s.stream k).pos (szb s.params)) [] ∧
      SampleStoreFrame s t [(addr.toNat, szb s.params)] k ((s.stream k).pos + szb s.params) := by
  obtain ⟨hw, -, hempty, -, haddr, -⟩ := h
  have hvalid : (s.stream k).valid = true := Bool.eq_true_of_not_eq_false hempty
  have hin : inBmem s.params addr.toNat (szb s.params) := inBmem_of_not_addrCause haddr (by simp [outputRanges])
  have hrun : execSmpb k addr s =
      .next ((s.seek k ((s.stream k).pos + szb s.params)).output
        [(addr.toNat, streamBytes (s.streamOf k) (s.stream k).pos (szb s.params))]).finish :=
    runCommand_done hw (requireStream_eq_done.mpr
      ⟨hvalid, requireRange_eq_done.mpr ⟨hin, sampled_eq_done.mpr ⟨_, _, rfl, rfl⟩⟩⟩)
  exact sampleStore_ends hs hrun (sampleBinary_length s.params (s.streamOf k) (s.stream k).pos)

/-! ### Small secrets decoded -/

theorem dect_ends {ps aux8 : BitVec 8} {addr : BitVec 32} (hs : s.Sound) (h : noCause (.dect ps aux8 addr) s) :
    ∃ t, exec (.dect ps aux8 addr) s = .next t ∧
      t.Holds ps (auxTag aux8)
        (fun j => imod (((Memory.read s.bmem (addr.toNat + j / 5)).toNat / 3 ^ (j % 5) % 3 : Nat) - 1)
          (auxModulus s.params aux8)) ∧
      SlotFrame s t ps := by
  obtain ⟨hw, -, -, -, haddr, hdecode⟩ := h
  obtain ⟨hinLen, htrits⟩ := not_or.mp hdecode
  have hin : inBmem s.params addr.toNat (szt s.params) := inBmem_of_not_addrCause haddr (by simp [inputRanges])
  have hok : ternaryOk (Memory.readBytes s.bmem addr.toNat (szt s.params)) = true := by
    simpa [badTrit, ternaryOk] using htrits
  obtain ⟨hpos, hle⟩ := auxModulus_range hs.legal (of_decide_eq_true (auxOk_of_wellFormed hw))
  have hlen := length_decodeTernary (Memory.length_readBytes s.bmem addr.toNat (szt s.params))
  have hrun : execDect ps aux8 addr s =
      .next (s.setSlot ps (auxTag aux8)
        ((decodeTernary s.params (Memory.readBytes s.bmem addr.toNat (szt s.params))).map
          fun t => imod t (auxModulus s.params aux8))).finish :=
    runCommand_done hw
      (requireRange_eq_done.mpr ⟨hin, require_eq_done.mpr ⟨not_lt.mp hinLen, require_of hok _ _⟩⟩)
  exact slotCommand_ends hs hw (by simp [Instr.slots]) hrun (by rw [List.length_map, hlen])
    (List.forall_mem_map.mpr fun _ _ => (imod_lt _ hpos).trans_le hle) fun _ => at0_decodeTernary _ _ _ _

theorem decb_ends {ps aux8 : BitVec 8} {addr : BitVec 32} (hs : s.Sound) (h : noCause (.decb ps aux8 addr) s) :
    ∃ t, exec (.decb ps aux8 addr) s = .next t ∧
      t.Holds ps (auxTag aux8) (fun j => (Memory.read s.bmem (addr.toNat + j / 8)).toNat / 2 ^ (j % 8) % 2) ∧
      SlotFrame s t ps := by
  obtain ⟨hw, -, -, -, haddr, hdecode⟩ := h
  have hin : inBmem s.params addr.toNat (szb s.params) := inBmem_of_not_addrCause haddr (by simp [inputRanges])
  have hlen := length_decodeBinary (Memory.length_readBytes s.bmem addr.toNat (szb s.params))
  have hrun : execDecb ps aux8 addr s =
      .next (s.setSlot ps (auxTag aux8)
        ((decodeBinary s.params (Memory.readBytes s.bmem addr.toNat (szb s.params))).map Int.toNat)).finish :=
    runCommand_done hw (requireRange_eq_done.mpr ⟨hin, require_of (not_lt.mp hdecode) _ _⟩)
  exact slotCommand_ends hs hw (by simp [Instr.slots]) hrun (by rw [List.length_map, hlen])
    (fun x hx => (decodeBinary_toNat_lt_two _ _ x hx).trans (by norm_num))
    fun _ => at0_decodeBinary _ _ _

end Commands

/-- Settles O23: the samples are polynomials of residues modulo `Q`, and the slot is one of the register file. -/
theorem sampleIntoSlot : Obligations.SampleIntoSlot := by
  unfold Obligations.SampleIntoSlot
  exact fun s pd k sub v pos hs => ⟨smpu_ends hs, smpg_ends hs⟩

/-- Settles O24: the bytes written are read back, as `BMEM` is in canonical form. -/
theorem sampleIntoMemory : Obligations.SampleIntoMemory := by
  unfold Obligations.SampleIntoMemory
  intro s k addr hs
  refine ⟨fun v pos h hv => ?_, fun h => ?_⟩
  · obtain ⟨t, hrun, hbytes, hframe⟩ := smpt_ends hs h hv
    exact ⟨t, hrun, sampleTernary_length hv, hbytes, hframe⟩
  · obtain ⟨t, hrun, hbytes, hframe⟩ := smpb_ends hs h
    refine ⟨t, hrun, fun j hj => ?_, hframe⟩
    rw [hbytes j (by simpa [streamBytes, szb] using hj) (by simp)]
    simp [streamBytes, State.streamOf]

/-- Settles O25: digit by digit and bit by bit of the bytes read. -/
theorem decodeSmallSecrets : Obligations.DecodeSmallSecrets := by
  unfold Obligations.DecodeSmallSecrets
  exact fun s ps aux8 addr hs => ⟨dect_ends hs, decb_ends hs⟩

/-! ### The attempts at a command in flight (log 5) -/

theorem step_eq_exec {s : State} {f : Flight} (hphase : s.phase = .busy) (hport : s.port = [])
    (hflight : s.flight = some f) : step s = exec f.instr s := by
  simp [step, advance, enginePort, hport, hphase, hflight]

/-- A run whose first step gives a next state goes on from there, on every machine. -/
theorem run_succ {M : Host.Core} {s t : M.State} (h : M.step s = .next t) (n : Nat) : M.run (n + 1) s = M.run n t := by
  rw [Host.Core.run, h]

theorem run_one {M : Host.Core} {s t : M.State} (h : M.step s = .next t) : M.run 1 s = .next t := run_succ h 0

/-- A `SMPU` whose draws do not suffice is attempted again with twice as many. -/
theorem smpu_keepsRunning {s : State} {pd : BitVec 8} {k : BitVec 2} {sub : BitVec 4} (h : noCause (.smpu pd k sub) s)
    (hv : sampleUniform s.params (s.streamOf k) s.budget (s.stream k).pos = none) :
    exec (.smpu pd k sub) s = .next (s.keepRunning (.smpu pd k sub)) := by
  obtain ⟨hw, -, hempty, -⟩ := h
  have hvalid : (s.stream k).valid = true := Bool.eq_true_of_not_eq_false hempty
  have hrun : execSmpu pd k sub s = .next (s.keepRunning (.smpu pd k sub)) :=
    runCommand_running hw (require_eq_running.mpr ⟨hvalid, by rw [hv]; rfl⟩)
  exact hrun

/-- Another attempt starts from the same data. -/
theorem State.Sound.keepRunning {s : State} (h : s.Sound) (i : Instr) : (s.keepRunning i).Sound :=
  ⟨h.legal, h.memory, h.config, h.shape, h.residues⟩

/-- What has changed since an attempt was put off has changed since it began. -/
theorem sampleFrame_of_keepRunning {s t : State} {i : Instr} {pd : BitVec 8} {k : BitVec 2} {pos : Nat}
    (h : SampleFrame (s.keepRunning i) t pd k pos) : SampleFrame s t pd k pos := h

/-- A `SMPU` in flight whose draws suffice ends with the engine's next move. -/
theorem smpu_inFlight_ends_at_once {s : State} {pd : BitVec 8} {k : BitVec 2} {sub : BitVec 4} {v : List Nat}
    {pos : Nat} (hs : s.Sound) (h : noCause (.smpu pd k sub) s) (hstep : step s = exec (.smpu pd k sub) s)
    (hv : sampleUniform s.params (s.streamOf k) s.budget (s.stream k).pos = some (v, pos)) :
    ∃ t, Host.Core.run core 1 s = .next t ∧ t.Holds pd (if sub = 0 then .coef else .ntt) (at0 v) ∧
      SampleFrame s t pd k pos := by
  obtain ⟨t, hrun, hholds, hframe⟩ := smpu_ends hs h hv
  exact ⟨t, run_one (M := core) (hstep.trans hrun), hholds, hframe⟩

/-- A `SMPU` in flight whose loop ends within `draws` draws, by how many draws its budget is short of them: an attempt
that does not end doubles the budget, so each brings it at least one draw nearer. -/
theorem smpu_inFlight_ends {s : State} {pd : BitVec 8} {k : BitVec 2} {sub : BitVec 4} {b draws short : Nat}
    {v : List Nat} {pos : Nat} (hs : s.Sound) (h : noCause (.smpu pd k sub) s) (hphase : s.phase = .busy)
    (hport : s.port = []) (hb : 0 < b) (hflight : s.flight = some { instr := .smpu pd k sub, budget := b })
    (hv : sampleUniform s.params (s.streamOf k) draws (s.stream k).pos = some (v, pos)) (hshort : draws ≤ b + short) :
    ∃ n t, n ≤ short + 1 ∧ Host.Core.run core n s = .next t ∧
      t.Holds pd (if sub = 0 then .coef else .ntt) (at0 v) ∧ SampleFrame s t pd k pos := by
  have hbudget : s.budget = b := by rw [State.budget, hflight]
  have hstep : step s = exec (.smpu pd k sub) s := step_eq_exec hphase hport hflight
  induction short generalizing s b with
  | zero =>
    obtain ⟨t, ht⟩ := smpu_inFlight_ends_at_once hs h hstep (hbudget ▸ collect_mono hshort hv)
    exact ⟨1, t, le_rfl, ht⟩
  | succ short ih =>
    cases hattempt : sampleUniform s.params (s.streamOf k) s.budget (s.stream k).pos with
    | some r =>
      rw [collect_unique hattempt hv] at hattempt
      obtain ⟨t, ht⟩ := smpu_inFlight_ends_at_once hs h hstep hattempt
      exact ⟨1, t, by omega, ht⟩
    | none =>
      have hagain := smpu_keepsRunning h hattempt
      have hflight' : (s.keepRunning (.smpu pd k sub)).flight =
          some { instr := .smpu pd k sub, budget := 2 * b } := by rw [← hbudget]; rfl
      have hstep' := step_eq_exec (s := s.keepRunning (.smpu pd k sub)) rfl hport hflight'
      obtain ⟨n, t, hn, hrun, hholds, hframe⟩ := ih (hs.keepRunning _) h rfl hport (by omega) hflight' hv (by omega)
        (by rw [← hbudget]; rfl) hstep'
      exact ⟨n + 1, t, by omega, (run_succ (M := core) (hstep.trans hagain) n).trans hrun, hholds,
        sampleFrame_of_keepRunning hframe⟩

/-- Settles O60: the budget, at least 1, is short of fewer than `draws` draws. -/
theorem rejectionLoopEnds : Obligations.RejectionLoopEnds := by
  unfold Obligations.RejectionLoopEnds
  intro s pd k sub b draws v pos hs h hphase hport hb hflight hv
  exact smpu_inFlight_ends hs h hphase hport hb hflight hv (Nat.le_add_left draws b)

end Sys2Proof.Machine
end

section
/-! SUPPORT. Numbers packed into bytes and read back (`20_memory.md` R48, R49): a number below `2^(w*n)` and its `n`
digits to base `2^w` determine each other, place by place and as a whole. -/

namespace Sys2Proof.Machine

/-! ### Numbers and their digits -/

theorem ofDigits_eq_sum (w : Nat) (v : List Nat) :
    ofDigits w v = ∑ i ∈ Finset.range v.length, at0 v i * 2 ^ (i * w) := by
  induction v with
  | nil => rfl
  | cons x v ih =>
    rw [ofDigits, ih, List.length_cons, Finset.sum_range_succ', Finset.mul_sum, Nat.add_comm]
    congr 1
    · refine Finset.sum_congr rfl fun i _ => ?_
      have hplace : at0 (x :: v) (i + 1) = at0 v i := rfl
      rw [hplace, Nat.succ_mul, Nat.pow_add]
      ring
    · simp [at0]

theorem ofDigits_lt {w : Nat} {v : List Nat} (h : ∀ x ∈ v, x < 2 ^ w) : ofDigits w v < 2 ^ (w * v.length) := by
  induction v with
  | nil => exact Nat.one_pos
  | cons x v ih =>
    obtain ⟨hx, hv⟩ := List.forall_mem_cons.mp h
    calc x + 2 ^ w * ofDigits w v < 2 ^ w * (ofDigits w v + 1) := by rw [Nat.mul_succ]; omega
      _ ≤ 2 ^ w * 2 ^ (w * v.length) := Nat.mul_le_mul_left _ (ih hv)
      _ = 2 ^ (w * (x :: v).length) := by rw [← Nat.pow_add, List.length_cons, Nat.mul_succ, Nat.add_comm]

/-- The digits of a number put together from digits are these. -/
theorem digits_ofDigits {w : Nat} {v : List Nat} (h : ∀ x ∈ v, x < 2 ^ w) : digits w v.length (ofDigits w v) = v := by
  induction v with
  | nil => rfl
  | cons x v ih =>
    obtain ⟨hx, hv⟩ := List.forall_mem_cons.mp h
    have hdigit : (x + 2 ^ w * ofDigits w v) % 2 ^ w = x := by rw [Nat.add_mul_mod_self_left, Nat.mod_eq_of_lt hx]
    have hrest : (x + 2 ^ w * ofDigits w v) / 2 ^ w = ofDigits w v := by
      rw [Nat.add_mul_div_left _ _ (Nat.two_pow_pos w), Nat.div_eq_of_lt hx, Nat.zero_add]
    rw [List.length_cons, ofDigits, digits, hdigit, hrest, ih hv]

/-- A number that has no more than `n` digits is put together from its `n` digits. -/
theorem ofDigits_digits {w n x : Nat} (h : x < 2 ^ (w * n)) : ofDigits w (digits w n x) = x := by
  induction n generalizing x with
  | zero => exact (Nat.lt_one_iff.mp h).symm
  | succ n ih =>
    have hrest : x / 2 ^ w < 2 ^ (w * n) := Nat.div_lt_of_lt_mul (by rwa [← Nat.pow_add, Nat.add_comm])
    rw [digits, ofDigits, ih hrest, Nat.mod_add_div]

/-! ### Numbers and their bytes -/

/-- Byte `k` of the little-endian form of a number is its digit `k` to base 256. -/
theorem toNat_getElem_bytesOf (n x : Nat) {k : Nat} (hk : k < (bytesOf n x).length) :
    ((bytesOf n x)[k]).toNat = x / 256 ^ k % 256 := by
  have hlen : k < (digits 8 n x).length := by simpa [bytesOf] using hk
  have hdigit : (digits 8 n x)[k] = x / 256 ^ k % 256 := by
    rw [← List.getD_eq_getElem _ 0 hlen, ← at0, at0_digits x (by simpa using hlen), Nat.pow_mul]
    rfl
  simp [bytesOf, hdigit]

/-- A number that fits into `n` bytes is what they spell. -/
theorem intLe_bytesOf {n x : Nat} (h : x < 2 ^ (8 * n)) : intLe (bytesOf n x) = x := by
  have hbytes : (bytesOf n x).map BitVec.toNat = digits 8 n x := by
    rw [bytesOf, List.map_map]
    refine (List.map_congr_left fun v hv => ?_).trans (List.map_id _)
    exact Nat.mod_eq_of_lt (digits_lt 8 n x v hv)
  rw [intLe, hbytes, ofDigits_digits h]

/-- The little-endian integer of `n` bytes in a row. -/
theorem intLe_map_range (f : Nat → Byte) (n : Nat) :
    intLe ((List.range n).map f) = ∑ k ∈ Finset.range n, (f k).toNat * 256 ^ k := by
  rw [intLe, List.map_map, ofDigits_eq_sum, List.length_map, List.length_range]
  refine Finset.sum_congr rfl fun k hk => ?_
  have hk : k < n := Finset.mem_range.mp hk
  rw [at0_map _ (by simpa using hk) 0, Nat.mul_comm k 8, Nat.pow_mul]
  simp [hk]

/-! ### Packed polynomials -/

/-- R121: the bytes of a packed polynomial. -/
theorem toNat_getElem_serialize (p : Params) (v : List Nat) (b : Nat) {k : Nat} (hk : k < (serialize p v b).length) :
    ((serialize p v b)[k]).toNat =
      (∑ i ∈ Finset.range v.length, at0 v i * 2 ^ (i * b)) / 256 ^ k % 256 := by
  rw [← ofDigits_eq_sum]
  exact toNat_getElem_bytesOf _ _ hk

/-- R122: the coefficients unpacked from bytes in memory. -/
theorem at0_deserialize (p : Params) (m : Memory) (a b : Nat) {j : Nat} (hj : j < p.d) :
    at0 (deserialize p (Memory.readBytes m a (packedLen p b)) b) j =
      (∑ k ∈ Finset.range (packedLen p b), (Memory.read m (a + k)).toNat * 256 ^ k) / 2 ^ (j * b) % 2 ^ b := by
  have hall : (Memory.readBytes m a (packedLen p b)).take (packedLen p b) = Memory.readBytes m a (packedLen p b) :=
    List.take_of_length_le (Memory.length_readBytes ..).le
  rw [deserialize, at0_digits _ hj, hall, Memory.readBytes, intLe_map_range, Nat.mul_comm]

theorem deserialize_lt (p : Params) (s : List Byte) (b : Nat) : ∀ x ∈ deserialize p s b, x < 2 ^ b := digits_lt b p.d _

/-- R129: unpacking what was packed gives the polynomial back, as its `D * b` bits fit into the bytes. -/
theorem deserialize_serialize {p : Params} {v : List Nat} {b : Nat} (hlen : v.length = p.d)
    (h : ∀ x ∈ v, x < 2 ^ b) : deserialize p (serialize p v b) b = v := by
  have hbits : b * v.length ≤ 8 * packedLen p b := by
    rw [hlen, Nat.mul_comm b, Nat.mul_comm 8]
    exact le_mul_ceilDiv _ (by omega)
  have hfits : ofDigits b v < 2 ^ (8 * packedLen p b) :=
    (ofDigits_lt h).trans_le (Nat.pow_le_pow_right two_pos hbits)
  rw [deserialize, List.take_of_length_le (length_serialize ..).le, serialize, intLe_bytesOf hfits, ← hlen,
    digits_ofDigits h]

end Sys2Proof.Machine
end

section
/-! SUPPORT. The properties `43_codec.md` requires of the Codec functions: the rounding bound of compression (R130) and
the correctness of reconciliation (R131). -/

namespace Sys2Proof.Machine

/-! ### The rounding bound of compression -/

/-- R123 before the reduction: `2^b * v / q`, rounded. -/
def compressRaw (v b q : Nat) : Nat := (2 ^ b * v + q / 2) / q

/-- R124 before the reduction: `q * c / 2^b`, rounded. -/
def decompressRaw (c b q : Nat) : Nat := (q * c + 2 ^ (b - 1)) / 2 ^ b

theorem compress_eq (v b q : Nat) : compress v b q = compressRaw v b q % 2 ^ b := rfl

theorem decompress_eq (c b q : Nat) : decompress c b q = decompressRaw c b q % q := rfl

/-- A multiple of `2^b` more to decompress gives a multiple of `q` more. -/
theorem decompressRaw_add_mul (c k b q : Nat) : decompressRaw (c + 2 ^ b * k) b q = decompressRaw c b q + q * k := by
  have hsplit : q * (c + 2 ^ b * k) + 2 ^ (b - 1) = q * c + 2 ^ (b - 1) + 2 ^ b * (q * k) := by ring
  rw [decompressRaw, hsplit, Nat.add_mul_div_left _ _ (Nat.two_pow_pos b), decompressRaw]

/-- What is reduced between the two roundings makes no difference modulo `q`. -/
theorem decompress_compress (v b q : Nat) :
    decompress (compress v b q) b q = decompressRaw (compressRaw v b q) b q % q := by
  have hraw := decompressRaw_add_mul (compress v b q) (compressRaw v b q / 2 ^ b) b q
  rw [compress_eq, Nat.mod_add_div] at hraw
  rw [hraw, Nat.add_mul_mod_self_left, decompress_eq, compress_eq]

/-- Rounding to a multiple of `q / 2^b` and back is off by at most half of that, rounded up. -/
theorem decompressRaw_compressRaw_near {q b : Nat} (v : Nat) (hq : 0 < q) (hb : 1 ≤ b) :
    decompressRaw (compressRaw v b q) b q ≤ v + ceilDiv q (2 ^ (b + 1)) ∧
      v ≤ decompressRaw (compressRaw v b q) b q + ceilDiv q (2 ^ (b + 1)) := by
  obtain ⟨e, rfl⟩ : ∃ e, b = e + 1 := ⟨b - 1, by omega⟩
  have hhalf : 0 < 2 ^ e := Nat.two_pow_pos e
  have hceil := le_mul_ceilDiv q (Nat.two_pow_pos (e + 1 + 1))
  rw [decompressRaw, compressRaw, Nat.add_sub_cancel, show 2 ^ (e + 1) = 2 * 2 ^ e by ring]
  generalize ceilDiv q (2 ^ (e + 1 + 1)) = bound at hceil ⊢
  rw [show bound * 2 ^ (e + 1 + 1) = 2 * (2 * 2 ^ e * bound) by ring] at hceil
  generalize 2 ^ e = half at hhalf hceil ⊢
  have hc := Nat.div_add_mod (2 * half * v + q / 2) q
  have hcmod := Nat.mod_lt (2 * half * v + q / 2) hq
  generalize (2 * half * v + q / 2) / q = c at hc ⊢
  have ha := Nat.div_add_mod (q * c + half) (2 * half)
  have hamod := Nat.mod_lt (q * c + half) (show 0 < 2 * half by omega)
  generalize (q * c + half) / (2 * half) = a at ha ⊢
  have hscale {x y : Nat} (h : x + bound < y) : 2 * half * x + 2 * half * bound + 2 * half ≤ 2 * half * y :=
    calc 2 * half * x + 2 * half * bound + 2 * half = 2 * half * (x + bound + 1) := by ring
      _ ≤ 2 * half * y := Nat.mul_le_mul_left _ h
  constructor <;> by_contra! hfar
  · have habove := hscale hfar
    omega
  · have hbelow := hscale hfar
    omega

theorem imod_le_of_le {x : Int} {n : Nat} (q : Nat) (hx : 0 ≤ x) (hn : x ≤ n) : imod x q ≤ n := by
  lift x to Nat using hx
  rw [imod_natCast]
  exact (Nat.mod_le x q).trans (Int.ofNat_le.mp hn)

/-- Settles O42: the reductions make no difference modulo `q`, and the distance is that of the roundings. -/
theorem compressionBound : Obligations.CompressionBound := by
  unfold Obligations.CompressionBound
  rintro q b v hq hb - a rfl
  obtain ⟨habove, hbelow⟩ := decompressRaw_compressRaw_near v hq hb
  rw [decompress_compress, Int.natCast_mod]
  generalize decompressRaw (compressRaw v b q) b q = a at habove hbelow ⊢
  rcases le_total v a with hle | hle
  · refine min_le_of_left_le ?_
    rw [imod, Int.emod_sub_emod, ← imod]
    exact imod_le_of_le q (by omega) (by omega)
  · refine min_le_of_right_le ?_
    rw [imod, Int.sub_emod_emod, ← imod]
    exact imod_le_of_le q (by omega) (by omega)

/-! ### Reconciliation -/

section Reconciliation
variable {q2 v : Nat}

/-- R123 at one bit: 1 in the two middle quarters. -/
theorem compress_one_eq_ite (hv : v < q2) : compress v 1 q2 = if q2 ≤ 4 * v ∧ 4 * v < 3 * q2 then 1 else 0 := by
  have hdiv := Nat.div_add_mod (2 * v + q2 / 2) q2
  have hmod := Nat.mod_lt (2 * v + q2 / 2) (Nat.zero_lt_of_lt hv)
  have hlt : (2 * v + q2 / 2) / q2 < 3 := Nat.div_lt_of_lt_mul (by omega)
  rw [compress, pow_one]
  interval_cases (2 * v + q2 / 2) / q2 <;> split <;> omega

/-- R126: the low bit of the quarter. -/
theorem crossRound_eq_ite (hv : v < q2) :
    crossRound v q2 = if q2 ≤ 4 * v ∧ 4 * v < 2 * q2 ∨ 3 * q2 ≤ 4 * v then 1 else 0 := by
  have hdiv := Nat.div_add_mod (4 * v) q2
  have hmod := Nat.mod_lt (4 * v) (Nat.zero_lt_of_lt hv)
  have hlt : 4 * v / q2 < 4 := Nat.div_lt_of_lt_mul (by omega)
  rw [crossRound]
  interval_cases 4 * v / q2 <;> split <;> omega

/-- A residue moved by less than the modulus wraps around at most once. -/
theorem imod_add_eq {e : Int} (hv : v < q2) (hlo : -(q2 : Int) ≤ e) (hhi : e < q2) :
    (imod (v + e) q2 : Int) =
      if (v : Int) + e < 0 then v + e + q2 else if (v : Int) + e < q2 then v + e else v + e - q2 := by
  rw [imod_cast _ (Nat.zero_lt_of_lt hv)]
  split
  · rw [← Int.add_emod_right, Int.emod_eq_of_lt (by omega) (by omega)]
  · split
    · rw [Int.emod_eq_of_lt (by omega) (by omega)]
    · rw [← Int.sub_emod_right, Int.emod_eq_of_lt (by omega) (by omega)]

/-- R127 without subtraction: the interval of each hint, lower end included, upper end excluded. -/
theorem reconcile_eq_ite (w h : Nat) : reconcile w h q2 =
    if h = 0 then if (q2 + 3) / 4 + q2 / 8 ≤ w + 1 ∧ w + q2 / 8 + 1 < q2 then 1 else 0
    else if q2 / 8 ≤ w + 1 ∧ w + q2 / 4 + q2 / 8 + 1 < q2 then 1 else 0 := by
  unfold reconcile reconcileLo reconcileHi ceilDiv
  split
  · exact if_congr (by omega) rfl rfl
  · exact if_congr (by omega) rfl rfl

end Reconciliation

/-- Settles O43: an error below an eighth of `q2` keeps `v` inside the interval of its hint, or outside. -/
theorem reconciliationCorrect : Obligations.ReconciliationCorrect := by
  unfold Obligations.ReconciliationCorrect
  intro q2 v e _ hv hlo hhi
  have hw := imod_add_eq hv (show -(q2 : Int) ≤ e by omega) (by omega)
  generalize imod (v + e) q2 = w at hw ⊢
  rw [reconcile_eq_ite, compress_one_eq_ite hv, crossRound_eq_ite hv]
  by_cases hhint : q2 ≤ 4 * v ∧ 4 * v < 2 * q2 ∨ 3 * q2 ≤ 4 * v
  · rw [if_pos hhint, if_neg one_ne_zero]
    refine if_congr ?_ rfl rfl
    split at hw <;> omega
  · rw [if_neg hhint, if_pos rfl]
    refine if_congr ?_ rfl rfl
    split at hw <;> omega

end Sys2Proof.Machine
end

section
/-! SUPPORT. The Codec commands (`43_codec.md` R114 to R120): where no cause of an error is present, what stands in the
slot, in `BMEM` and in the stream context afterwards, and that nothing else changes. -/

namespace Sys2Proof.Machine

theorem allBelow_of_not_exists {m : Nat} {v : List Nat} (h : ¬∃ x ∈ v, m ≤ x) : allBelow m v = true := by
  simpa [allBelow] using h

theorem lt_of_allBelow {m : Nat} {v : List Nat} (h : allBelow m v = true) : ∀ x ∈ v, x < m := by
  simpa [allBelow] using h

/-- R115: the tag `aux8` selects. -/
theorem deserTag_eq_ite (aux8 : BitVec 8) :
    deserTag aux8 = if aux8 = 0 then .raw else if aux8 = 1 then .coef else .ntt := by
  unfold deserTag
  simp only [← BitVec.toNat_inj]
  split <;> simp_all

section Commands
variable {s : State} {i : Instr}

/-- R65: the width of a well-formed command. -/
theorem widthOk_of_wellFormed (hw : i.wellFormed s.params = true) : i.widthOk = true := by
  simp only [Instr.wellFormed, Bool.and_eq_true] at hw
  obtain ⟨⟨⟨⟨-, hwidth⟩, -⟩, -⟩, -⟩ := hw
  exact hwidth

/-- Numbers of at most 32 bits fit into a cell. -/
theorem two_pow_le_cell {bits : BitVec 6} (h : bitsOk bits = true) : 2 ^ bits.toNat ≤ 2 ^ 32 := by
  obtain ⟨-, hle⟩ := of_decide_eq_true h
  exact Nat.pow_le_pow_right two_pos hle

/-! ### Serialization -/

theorem ser_run {ps : BitVec 8} {bits : BitVec 6} {addr : BitVec 32} (h : noCause (.ser ps bits addr) s) :
    exec (.ser ps bits addr) s =
      .next (s.output [(addr.toNat, serialize s.params (s.coeffs ps) bits.toNat)]).finish := by
  obtain ⟨hw, -, hempty, -, haddr, hdecode⟩ := h
  have hin : inBmem s.params addr.toNat (packedLen s.params bits.toNat) :=
    inBmem_of_not_addrCause haddr (by simp [outputRanges])
  change execSer ps bits addr s = _
  exact runCommand_done hw (requireFull_eq_done.mpr
    ⟨hempty, requireRange_eq_done.mpr ⟨hin, require_of (allBelow_of_not_exists hdecode) _ _⟩⟩)

theorem ser_ends {ps : BitVec 8} {bits : BitVec 6} {addr : BitVec 32} (hs : s.Sound)
    (h : noCause (.ser ps bits addr) s) :
    ∃ t, exec (.ser ps bits addr) s = .next t ∧
      (∀ k, k < packedLen s.params bits.toNat →
        (Memory.read t.bmem (addr.toNat + k)).toNat =
          (∑ i ∈ Finset.range s.params.d, s.coeff ps i * 2 ^ (i * bits.toNat)) / 256 ^ k % 256) ∧
      StoreFrame s t [(addr.toNat, packedLen s.params bits.toNat)] := by
  have hrun := ser_run h
  obtain ⟨-, -, hempty, -⟩ := h
  obtain ⟨hwf, -⟩ := hs.memory
  have hlen := length_serialize s.params (s.coeffs ps) bits.toNat
  refine ⟨_, hrun, fun k hk => ?_, rfl, ?_⟩
  · have hbyte := holds_writeBytes hwf addr.toNat (serialize s.params (s.coeffs ps) bits.toNat) k (hlen ▸ hk) (by simp)
    rw [← coeffs_length hs.shape hempty]
    exact (congrArg BitVec.toNat hbyte).trans (toNat_getElem_serialize ..)
  · exact hlen ▸ sameOutside_output s.bmem [(addr.toNat, serialize s.params (s.coeffs ps) bits.toNat)]

theorem deser_run {ps aux8 : BitVec 8} {bits : BitVec 6} {addr : BitVec 32} {v : List Nat}
    (h : noCause (.deser ps bits aux8 addr) s)
    (hv : deserialize s.params (Memory.readBytes s.bmem addr.toNat (packedLen s.params bits.toNat)) bits.toNat = v) :
    exec (.deser ps bits aux8 addr) s = .next (s.setSlot ps (deserTag aux8) v).finish := by
  subst hv
  obtain ⟨hw, -, -, -, haddr, hdecode⟩ := h
  obtain ⟨hshort, hbig⟩ := not_or.mp hdecode
  have hin : inBmem s.params addr.toNat (packedLen s.params bits.toNat) :=
    inBmem_of_not_addrCause haddr (by simp [inputRanges])
  have hbelow := (not_and_or.mp hbig).imp not_not.mp allBelow_of_not_exists
  change execDeser ps bits aux8 addr s = _
  exact runCommand_done hw
    (requireRange_eq_done.mpr ⟨hin, require_eq_done.mpr ⟨not_lt.mp hshort, require_of hbelow _ _⟩⟩)

theorem deser_ends {ps aux8 : BitVec 8} {bits : BitVec 6} {addr : BitVec 32} (hs : s.Sound)
    (h : noCause (.deser ps bits aux8 addr) s) :
    ∃ t, exec (.deser ps bits aux8 addr) s = .next t ∧
      t.Holds ps (deserTag aux8)
        (fun i =>
          (∑ k ∈ Finset.range (packedLen s.params bits.toNat),
            (Memory.read s.bmem (addr.toNat + k)).toNat * 256 ^ k) / 2 ^ (i * bits.toNat) % 2 ^ bits.toNat) ∧
      SlotFrame s t ps := by
  have hrun := deser_run h rfl
  obtain ⟨hw, -⟩ := h
  exact slotCommand_ends hs hw (by simp [Instr.slots]) hrun (length_deserialize ..)
    (fun x hx => (deserialize_lt _ _ _ x hx).trans_le (two_pow_le_cell (widthOk_of_wellFormed hw)))
    fun _ => at0_deserialize _ _ _ _

/-! ### Compression, decompression, cross-rounding -/

/-- A command whose checks pass and which then puts a function of each coefficient of `pa` into the slot `pd`. -/
theorem mapSlot_ends {pd pa : BitVec 8} {tag : Tag} {op : Nat → Nat} (hs : s.Sound)
    (hw : i.wellFormed s.params = true) (hpd : pd ∈ i.slots) (hempty : (s.slot pa).tag ≠ .empty)
    (hrun : exec i s = .next (s.setSlot pd tag ((s.coeffs pa).map op)).finish) (hop : ∀ x, op x < 2 ^ 32) :
    ∃ t, exec i s = .next t ∧ t.Holds pd tag (fun j => op (s.coeff pa j)) ∧ SlotFrame s t pd := by
  have hlen := coeffs_length hs.shape hempty
  exact slotCommand_ends hs hw hpd hrun (by rw [List.length_map, hlen]) (List.forall_mem_map.mpr fun x _ => hop x)
    fun _ hj => at0_map _ (hlen ▸ hj) 0

section Rounding
variable {pd pa : BitVec 8} {bits : BitVec 6} {msel : BitVec 2} {mbits : BitVec 6}

theorem comp_ends (hs : s.Sound) (h : noCause (.comp pd pa bits msel mbits) s) :
    ∃ t, exec (.comp pd pa bits msel mbits) s = .next t ∧
      t.Holds pd .raw (fun j => compress (s.coeff pa j) bits.toNat (modulus s.params msel mbits)) ∧
      SlotFrame s t pd := by
  obtain ⟨hw, -, hempty, hdomain, -⟩ := h
  have htag : (s.slot pa).tag = modTag msel := not_not.mp hdomain
  exact mapSlot_ends hs hw (by simp [Instr.slots]) hempty
    (runCommand_done hw (unarySlot_done hempty (by simp [htag]) rfl))
    fun _ => (Nat.mod_lt _ (Nat.two_pow_pos _)).trans_le (two_pow_le_cell (widthOk_of_wellFormed hw))

theorem dcmp_ends (hs : s.Sound) (h : noCause (.dcmp pd pa bits msel mbits) s) :
    ∃ t, exec (.dcmp pd pa bits msel mbits) s = .next t ∧
      t.Holds pd (modTag msel) (fun j => decompress (s.coeff pa j) bits.toNat (modulus s.params msel mbits)) ∧
      SlotFrame s t pd := by
  obtain ⟨hw, -, hempty, hdomain, -⟩ := h
  have htag : (s.slot pa).tag = .raw := not_not.mp hdomain
  obtain ⟨hpos, hle⟩ := modulus_range hs.legal (modOk_of_wellFormed hw)
  exact mapSlot_ends hs hw (by simp [Instr.slots]) hempty
    (runCommand_done hw (unarySlot_done hempty (by simp [htag]) rfl)) fun _ => (Nat.mod_lt _ hpos).trans_le hle

theorem xrnd_ends (hs : s.Sound) (h : noCause (.xrnd pd pa msel mbits) s) :
    ∃ t, exec (.xrnd pd pa msel mbits) s = .next t ∧
      t.Holds pd .raw (fun j => crossRound (s.coeff pa j) (modulus s.params msel mbits)) ∧ SlotFrame s t pd := by
  obtain ⟨hw, -, hempty, hdomain, -⟩ := h
  have htag : (s.slot pa).tag = modTag msel := not_not.mp hdomain
  exact mapSlot_ends hs hw (by simp [Instr.slots]) hempty
    (runCommand_done hw (unarySlot_done hempty (by simp [htag]) rfl))
    fun _ => (Nat.mod_lt _ two_pos).trans (by norm_num)

end Rounding

/-! ### Randomized doubling -/

/-- R125: the doubled coefficient at place `j`. -/
theorem at0_randomizeDouble (q : Nat) (word : Nat → Nat) {v : List Nat} {j : Nat} (hj : j < v.length) :
    at0 (randomizeDouble q word v) j =
      imod (2 * (at0 v j : Int) + (word (j / 32) / 2 ^ (2 * (j % 32)) % 2 : Nat) -
        (word (j / 32) / 2 ^ (2 * (j % 32) + 1) % 2 : Nat)) (2 * q) := by
  have hplace : (v.zipIdx).getD j (0, 0) = (at0 v j, j) := by
    simp [at0, List.getD_eq_getElem?_getD, hj]
  rw [randomizeDouble, at0_map _ (by simpa using hj) (0, 0), hplace]

theorem randomizeDouble_lt {q : Nat} (hq : 0 < q) (word : Nat → Nat) (v : List Nat) :
    ∀ x ∈ randomizeDouble q word v, x < 2 * q :=
  List.forall_mem_map.mpr fun _ _ => imod_lt _ (by omega)

/-- R125: the 64-bit word of a group of 32 coefficients, from the bytes of the stream. -/
theorem doubleWord_eq_sum (st : Nat → Byte) (pos g : Nat) :
    doubleWord st pos g = ∑ b ∈ Finset.range 8, (st (pos + 8 * g + b)).toNat * 256 ^ b := by
  rw [doubleWord, streamInt, streamBytes, intLe_map_range]

/-- A command whose checks pass and which then writes the slot `pd`, of whatever values fit into cells, and moves the
context `k` on to `pos`. -/
theorem seekSlot_ends {pd : BitVec 8} {tag : Tag} {v : List Nat} {k : BitVec 2} {pos : Nat} {f : Nat → Nat}
    (hs : s.Sound) (hw : i.wellFormed s.params = true) (hpd : pd ∈ i.slots)
    (hrun : exec i s = .next ((s.seek k pos).setSlot pd tag v).finish) (hlen : v.length = s.params.d)
    (hlt : ∀ x ∈ v, x < 2 ^ 32) (hf : ∀ j < s.params.d, at0 v j = f j) :
    ∃ t, exec i s = .next t ∧ t.Holds pd tag f ∧ SampleFrame s t pd k pos :=
  ⟨_, hrun,
    setSlot_finish_holds (s := s.seek k pos) (slot_lt_of_wellFormed (s := s) hs.shape hw hpd) hlen hlt hf,
    rfl, fun _ hn => slot_setSlot_other (s.seek k pos) hn.symm tag v, stream_setStream s k _,
    fun _ hk => stream_setStream_other s hk.symm _⟩

theorem rdbl_ends {pd pa : BitVec 8} {k : BitVec 2} (hs : s.Sound) (h : noCause (.rdbl pd pa k) s) :
    ∃ t, exec (.rdbl pd pa k) s = .next t ∧
      t.Holds pd .raw (fun j =>
        let r := doubleWord (s.streamOf k) (s.stream k).pos (j / 32)
        imod (2 * (s.coeff pa j : Int) + (r / 2 ^ (2 * (j % 32)) % 2 : Nat) - (r / 2 ^ (2 * (j % 32) + 1) % 2 : Nat))
          (2 * s.params.q)) ∧
      SampleFrame s t pd k ((s.stream k).pos + doubleBytes s.params) := by
  obtain ⟨hw, -, hempty, hdomain, -⟩ := h
  obtain ⟨hfull, hclosed⟩ := not_or.mp hempty
  have hvalid : (s.stream k).valid = true := Bool.eq_true_of_not_eq_false hclosed
  have htag : (s.slot pa).tag = .coef := not_not.mp hdomain
  have hrun : execRdbl pd pa k s =
      .next ((s.seek k ((s.stream k).pos + doubleBytes s.params)).setSlot pd .raw
        (randomizeDouble s.params.q (doubleWord (s.streamOf k) (s.stream k).pos) (s.coeffs pa))).finish :=
    runCommand_done hw
      (requireFull_eq_done.mpr ⟨hfull, requireStream_eq_done.mpr ⟨hvalid, require_of htag _ _⟩⟩)
  have hlt := hs.legal.q_lt
  have hlen := coeffs_length hs.shape hfull
  exact seekSlot_ends hs hw (by simp [Instr.slots]) hrun ((length_randomizeDouble ..).trans hlen)
    (fun x hx => (randomizeDouble_lt (legal_q_pos hs.legal) _ _ x hx).trans (by omega))
    fun _ hj => at0_randomizeDouble _ _ (hlen ▸ hj)

/-! ### Reconciliation -/

theorem reconcile_lt_two (w h q2 : Nat) : reconcile w h q2 < 2 := by
  unfold reconcile
  split <;> norm_num

theorem recn_ends {pd pa pb : BitVec 8} {msel : BitVec 2} {mbits : BitVec 6} (hs : s.Sound)
    (h : noCause (.recn pd pa pb msel mbits) s) :
    ∃ t, exec (.recn pd pa pb msel mbits) s = .next t ∧
      t.Holds pd .raw (fun j => reconcile (s.coeff pa j) (s.coeff pb j) (modulus s.params msel mbits)) ∧
      SlotFrame s t pd := by
  obtain ⟨hw, -, hempty, hdomain, -, hdecode⟩ := h
  obtain ⟨hea, heb⟩ := not_or.mp hempty
  obtain ⟨hta, htb⟩ := not_or.mp hdomain
  have htags : (s.slot pa).tag = modTag msel ∧ (s.slot pb).tag = .raw := ⟨not_not.mp hta, not_not.mp htb⟩
  have hla := coeffs_length hs.shape hea
  have hlb := coeffs_length hs.shape heb
  have hrun : execRecn pd pa pb msel mbits s =
      .next (s.setSlot pd .raw (List.zipWith (fun w h => reconcile w h (modulus s.params msel mbits)) (s.coeffs pa)
        (s.coeffs pb))).finish :=
    runCommand_done hw (requireFull_eq_done.mpr ⟨hea, requireFull_eq_done.mpr ⟨heb,
      require_eq_done.mpr ⟨htags, require_of (allBelow_of_not_exists hdecode) _ _⟩⟩⟩)
  refine slotCommand_ends hs hw (by simp [Instr.slots]) hrun (by simp [hla, hlb])
    (forall_mem_zipWith (P := (· < 2 ^ 32)) (fun _ _ => (reconcile_lt_two _ _ _).trans (by norm_num)) _ _)
    fun j hj => ?_
  exact at0_zipWith _ (hla ▸ hj) (hlb ▸ hj)

/-! ### The round trip of the commands -/

/-- A packed polynomial is shorter than `2^32` bytes, so that `INLEN` can hold its length. -/
theorem packedLen_lt {p : Params} (hp : p.Legal) {b : Nat} (hb : b ≤ 32) : packedLen p b < 2 ^ 32 := by
  have hd : 2 * p.d < p.q := by
    have hmod := hp.q_mod
    have hprime := hp.q_prime.one_lt
    rcases lt_trichotomy p.q (2 * p.d) with hlt | heq | hgt
    · rw [Nat.mod_eq_of_lt hlt] at hmod
      omega
    · rw [← heq, Nat.mod_self] at hmod
      omega
    · exact hgt
  have hq := hp.q_lt
  have hbits : p.d * b ≤ p.d * 32 := Nat.mul_le_mul_left _ hb
  unfold packedLen ceilDiv
  omega

/-- Where `SER` finds its range inside `BMEM` and `INLEN` says that the bytes are there, a `DESER` that takes every
value finds nothing wrong. -/
theorem noCause_deser {u : State} {ps pd : BitVec 8} {bits : BitVec 6} {addr : BitVec 32}
    (h : noCause (.ser ps bits addr) s) (hparams : u.params = s.params)
    (hw : (Instr.deser pd bits 0 addr).wellFormed s.params = true)
    (hinLen : packedLen s.params bits.toNat ≤ u.inLen.toNat) : noCause (.deser pd bits 0 addr) u := by
  obtain ⟨-, -, -, -, haddr, -⟩ := h
  refine ⟨hparams ▸ hw, not_false, not_false, not_false, ?_, ?_⟩
  · rintro ⟨r, hr, hout⟩
    exact haddr ⟨r, by simpa [inputRanges, outputRanges, hparams] using hr, hparams ▸ hout⟩
  · rintro (hshort | ⟨hne, -⟩)
    · exact absurd (hparams ▸ hshort) (not_lt.mpr hinLen)
    · exact hne rfl

/-- What `SER` has stored is the source again for a `DESER` of the same width. -/
theorem deserialize_of_ser (hs : s.Sound) {ps : BitVec 8} {bits : BitVec 6} {addr : BitVec 32}
    (h : noCause (.ser ps bits addr) s) :
    deserialize s.params
      (Memory.readBytes
        (Memory.writeBytes s.bmem addr.toNat (serialize s.params (s.coeffs ps) bits.toNat)) addr.toNat
        (packedLen s.params bits.toNat)) bits.toNat = s.coeffs ps := by
  obtain ⟨-, -, hempty, -, -, hdecode⟩ := h
  obtain ⟨hwf, -⟩ := hs.memory
  have hbytes := Memory.readBytes_writeBytes hwf addr.toNat (serialize s.params (s.coeffs ps) bits.toNat)
  rw [length_serialize] at hbytes
  rw [hbytes, deserialize_serialize (coeffs_length hs.shape hempty) (lt_of_allBelow (allBelow_of_not_exists hdecode))]

/-- R129 in commands. -/
theorem ser_deser_ends (hs : s.Sound) {ps pd : BitVec 8} {bits : BitVec 6} {addr : BitVec 32}
    (h : noCause (.ser ps bits addr) s) (hw : (Instr.deser pd bits 0 addr).wellFormed s.params = true) :
    ∃ t u, exec (.ser ps bits addr) s = .next t ∧
      exec (.deser pd bits 0 addr) (t.csrStore 0x0B (BitVec.ofNat 32 (packedLen s.params bits.toNat))) = .next u ∧
      u.phase = .idle ∧ (u.slot pd).c = (s.slot ps).c := by
  obtain ⟨-, hbits⟩ := of_decide_eq_true (widthOk_of_wellFormed hw)
  have hinLen : (BitVec.ofNat 32 (packedLen s.params bits.toNat)).toNat = packedLen s.params bits.toNat :=
    (BitVec.toNat_ofNat _ 32).trans (Nat.mod_eq_of_lt (packedLen_lt hs.legal hbits))
  refine ⟨_, _, ser_run h, deser_run (noCause_deser h rfl hw hinLen.ge) (deserialize_of_ser hs h), rfl, ?_⟩
  have hpd := slot_lt_of_wellFormed (pd := pd) hs.shape hw (by simp [Instr.slots])
  exact (congrArg Slot.c (slot_setSlot _ hpd _ _)).trans (cellsOf_natsOf _)

end Commands

/-- Settles O26: the bytes written are those of the packed sum. -/
theorem serializeCommand : Obligations.SerializeCommand := by
  unfold Obligations.SerializeCommand
  exact fun s ps bits addr hs => ser_ends hs

/-- Settles O27: the digits of the bytes read, with the tag `aux8` selects. -/
theorem deserializeCommand : Obligations.DeserializeCommand := by
  unfold Obligations.DeserializeCommand
  intro s ps bits aux8 addr hs h
  rw [← deserTag_eq_ite]
  exact deser_ends hs h

/-- Settles O28: each command is its rounding of the coefficients of the source. -/
theorem roundingCommands : Obligations.RoundingCommands := by
  unfold Obligations.RoundingCommands
  rintro s pd pa bits msel mbits m hs rfl
  exact ⟨comp_ends hs, dcmp_ends hs, xrnd_ends hs⟩

/-- Settles O29: the doubled coefficient at each place takes its bit pair from the word of its group. -/
theorem randomizedDoubling : Obligations.RandomizedDoubling := by
  unfold Obligations.RandomizedDoubling
  intro s pd pa k hs h
  obtain ⟨t, hrun, ⟨htag, hlen, hcoeff⟩, hframe⟩ := rdbl_ends hs h
  simp only [doubleWord_eq_sum] at hcoeff
  exact ⟨t, hrun, ⟨htag, hlen, hcoeff⟩, hframe⟩

/-- Settles O30: each coefficient is reconciled with its hint bit. -/
theorem reconcileCommand : Obligations.ReconcileCommand := by
  unfold Obligations.ReconcileCommand
  rintro s pd pa pb msel mbits m hs rfl h
  obtain ⟨t, hrun, ⟨htag, hlen, hcoeff⟩, hframe⟩ := recn_ends hs h
  exact ⟨t, hrun, ⟨htag, hlen, fun j hj => (hcoeff j hj).trans (reconcile_eq_ite _ _)⟩, hframe⟩

/-- Settles O41: packing loses nothing, the bytes stored are read back, and `INLEN` can hold their number. -/
theorem serializationRoundTrip : Obligations.SerializationRoundTrip := by
  unfold Obligations.SerializationRoundTrip
  exact ⟨fun p v b _ _ hlen h => ⟨deserialize_serialize hlen h, length_serialize p v b⟩,
    fun s i k b a hs h hw => ser_deser_ends hs h hw⟩

end Sys2Proof.Machine
end

section
/-! SUPPORT. The scratch of the protocol commands (`44_protocol.md` R138): a run that ends leaves it cleared, and no
command reads the slots, the accumulator or the stream contexts it starts from. -/

namespace Sys2Proof.Machine

/-! ### Cleared at the end -/

theorem wellFormed_of_isProtocol {i : Instr} (hi : isProtocol i = true) (p : Params) : i.wellFormed p = true := by
  cases i
  case setup | keygen | encap | enc | decap | dec => rfl
  all_goals cases hi

theorem prepOf_of_isProtocol {i : Instr} (hi : isProtocol i = true) (s : State) : prepOf i s = s.clearScratch := by
  cases i
  case setup | keygen | encap | enc | decap | dec => rfl
  all_goals cases hi

theorem not_isProtocol_of_slotResult {s : State} {i : Instr} {pd : BitVec 8} {tag : Tag} {v : List Nat}
    (h : SlotResult s i pd tag v) : isProtocol i = false := by
  cases h <;> rfl

theorem clearScratch_stream (s : State) (k : BitVec 2) :
    s.clearScratch.stream k = { s.stream k with valid := false } := by
  simp [State.stream]

theorem scratchCleared_clearScratch (s : State) : s.clearScratch.ScratchCleared :=
  ⟨List.forall_mem_map.mpr fun _ _ => rfl, rfl, fun k => by rw [clearScratch_stream]⟩

/-- Moving the position of a context on makes no context valid. -/
theorem State.ScratchCleared.seek {s : State} (h : s.ScratchCleared) (k : BitVec 2) (pos : Nat) :
    (s.seek k pos).ScratchCleared := by
  obtain ⟨hslots, hacc, hstreams⟩ := h
  refine ⟨hslots, hacc, fun k' => ?_⟩
  by_cases hk : k = k'
  · subst hk
    rw [State.seek, stream_setStream]
    exact hstreams k
  · rw [State.seek, stream_setStream_other s hk]
    exact hstreams k'

/-- What a protocol command may write besides the scratch: the matrix, `BMEM`, and the registers of its end. -/
def ProtocolKept (s t : State) : Prop :=
  t = { s with
    slots := t.slots, accValid := t.accValid, xs := t.xs, amat := t.amat, aValid := t.aValid, bmem := t.bmem,
    errCode := t.errCode, errInfo := t.errInfo, phase := t.phase, flight := none, freeCtr := t.freeCtr }

/-- A protocol command's effect leaves the scratch as its checks found it, cleared. -/
theorem Effect.protocol {i : Instr} {s u : State} (h : Effect s.clearScratch i u) (hi : isProtocol i = true) :
    u.finish.ScratchCleared ∧ ProtocolKept s u.finish := by
  have hcleared := scratchCleared_clearScratch s
  cases h with
  | slot hslot | sampleSlot _ _ hslot => cases hi.symm.trans (not_isProtocol_of_slotResult hslot)
  | nop | ldcfg | clrerr | aclr | macs | xinita | xinits => cases hi
  | store outs => exact ⟨hcleared, rfl⟩
  | sampleStore k pos outs => exact ⟨hcleared.seek k pos, rfl⟩
  | setup => exact ⟨hcleared, rfl⟩

theorem Ran.protocol {i : Instr} {s t : State} (h : Ran i s t) (hi : isProtocol i = true) (ht : t.phase ≠ .busy) :
    t.ScratchCleared ∧ ProtocolKept s t := by
  have hprep := prepOf_of_isProtocol hi s
  cases h with
  | illegal hw => cases hw.symm.trans (wellFormed_of_isProtocol hi _)
  | running => exact absurd rfl ht
  | raised _ e => exact hprep.symm ▸ ⟨scratchCleared_clearScratch s, rfl⟩
  | ended _ he => exact (hprep ▸ he).protocol hi

/-- Settles O50: the three ways in which a protocol command can end. -/
theorem protocolClearsScratch : Obligations.ProtocolClearsScratch := by
  unfold Obligations.ProtocolClearsScratch
  intro i s t hi h ht
  have hran := exec_ran h
  obtain ⟨hcleared, hkept⟩ := hran.protocol hi ht
  exact ⟨hcleared, hkept, hran.matrix, hran.sameOutside⟩

/-! ### Never read -/

/-- What R138 clears: the slots, the accumulator and the stream contexts. -/
structure Scratch where
  slots : List Slot
  acc : List AccCell
  accValid : Bool
  xs : Vector StreamCtx 4

def State.withScratch (s : State) (c : Scratch) : State :=
  { s with slots := c.slots, acc := c.acc, accValid := c.accValid, xs := c.xs }

def Result.withScratch (c : Scratch) : Result → Result
  | .done t => .done (t.withScratch c)
  | .fail e => .fail e
  | .running => .running

def Scratch.clear (c : Scratch) : Scratch :=
  { c with
    slots := c.slots.map fun x => { x with tag := .empty }
    accValid := false
    xs := c.xs.map fun x => { x with valid := false } }

theorem clearScratch_withScratch (s : State) (c : Scratch) :
    (s.withScratch c).clearScratch = s.clearScratch.withScratch c.clear := rfl

theorem withScratch_require {p : Prop} [Decidable p] (e : ErrorKind) (k : Result) (c : Scratch) :
    (require p e k).withScratch c = require p e (k.withScratch c) := by
  unfold require
  split <;> rfl

theorem withScratch_requireSeed (s : State) (k : Result) (c : Scratch) :
    (requireSeed s k).withScratch c = requireSeed (s.withScratch c) (k.withScratch c) := by
  simp only [requireSeed, requireConfig, withScratch_require]
  rfl

theorem withScratch_requireMatrix (s : State) (k : Result) (c : Scratch) :
    (requireMatrix s k).withScratch c = requireMatrix (s.withScratch c) (k.withScratch c) :=
  withScratch_require ..

theorem withScratch_requireRange (s : State) (a n : Nat) (k : Result) (c : Scratch) :
    (requireRange s a n k).withScratch c = requireRange (s.withScratch c) a n (k.withScratch c) :=
  withScratch_require ..

theorem withScratch_requireDecap (s : State) (n : Nat) (k : Result) (c : Scratch) :
    (requireDecap s n k).withScratch c = requireDecap (s.withScratch c) n (k.withScratch c) := by
  simp only [requireDecap, requireConfig, withScratch_require, withScratch_requireRange]
  rfl

/-- The checks and the effect of a command do not depend on the scratch. -/
def IgnoresScratch (body : State → Result) : Prop := ∀ s c, body (s.withScratch c) = (body s).withScratch c

/-- Whatever scratch a run starts from, all that it leaves besides the scratch is the same. -/
def RunIgnoresScratch (run : State → Host.Outcome State Fault Refusal) : Prop :=
  ∀ (s t : State) (c : Scratch), run s = .next t →
    ∃ u, run (s.withScratch c) = .next u ∧ u.withScratch ⟨t.slots, t.acc, t.accValid, t.xs⟩ = t

/-- A command that clears the scratch and whose checks and effect do not depend on it. -/
theorem runCommand_ignoresScratch {i : Instr} {body : State → Result} (hbody : IgnoresScratch body) :
    RunIgnoresScratch (runCommand i State.clearScratch body) := by
  intro s t c h
  have hcleared : body (s.withScratch c).clearScratch = (body s.clearScratch).withScratch c.clear := by
    rw [clearScratch_withScratch, hbody]
  rcases runCommand_cases h with ⟨hw, ⟨u, hu, rfl⟩ | ⟨e, he, rfl⟩ | ⟨hrun, rfl⟩⟩ | ⟨hw, rfl⟩
  · rw [hu] at hcleared
    exact ⟨_, runCommand_done hw hcleared, rfl⟩
  · rw [he] at hcleared
    exact ⟨_, runCommand_fail hw hcleared, rfl⟩
  · rw [hrun] at hcleared
    exact ⟨_, runCommand_running hw hcleared, rfl⟩
  · exact ⟨_, runCommand_illegal hw, rfl⟩

@[simp] theorem withScratch_setting (s : State) (c : Scratch) : (s.withScratch c).setting = s.setting := rfl
@[simp] theorem withScratch_matrix (s : State) (c : Scratch) : (s.withScratch c).matrix = s.matrix := rfl
@[simp] theorem withScratch_seed (s : State) (c : Scratch) : (s.withScratch c).seed = s.seed := rfl
@[simp] theorem withScratch_pkOf (s : State) (c : Scratch) : (s.withScratch c).pkOf = s.pkOf := rfl
@[simp] theorem withScratch_msgOf (s : State) (c : Scratch) : (s.withScratch c).msgOf = s.msgOf := rfl
@[simp] theorem withScratch_arg (s : State) (c : Scratch) (k : Fin 12) : (s.withScratch c).arg k = s.arg k := rfl

theorem execSetup_ignoresScratch : RunIgnoresScratch execSetup := by
  refine runCommand_ignoresScratch fun s c => ?_
  simp only [withScratch_requireSeed, withScratch_requireRange, withScratch_setting, withScratch_seed,
    withScratch_arg]
  cases matrixRows s.setting s.seed <;> rfl

theorem execKeygen_ignoresScratch : RunIgnoresScratch execKeygen := by
  refine runCommand_ignoresScratch fun s c => ?_
  simp only [withScratch_requireSeed, withScratch_requireMatrix, withScratch_requireRange, withScratch_setting,
    withScratch_matrix, withScratch_seed, withScratch_arg]
  cases keygen s.setting s.matrix s.seed <;> rfl

theorem execEncap_ignoresScratch : RunIgnoresScratch execEncap := by
  refine runCommand_ignoresScratch fun s c => ?_
  simp only [withScratch_requireSeed, withScratch_requireMatrix, withScratch_requireRange, withScratch_require,
    withScratch_setting, withScratch_matrix, withScratch_seed, withScratch_pkOf, withScratch_arg]
  cases encap s.setting s.matrix s.seed (s.arg 4) s.pkOf <;> rfl

theorem execEnc_ignoresScratch : RunIgnoresScratch execEnc := by
  refine runCommand_ignoresScratch fun s c => ?_
  simp only [withScratch_requireSeed, withScratch_requireMatrix, withScratch_requireRange, withScratch_require,
    withScratch_setting, withScratch_matrix, withScratch_seed, withScratch_pkOf, withScratch_msgOf, withScratch_arg]
  cases enc s.setting s.matrix s.seed (s.arg 4) s.pkOf s.msgOf <;> rfl

theorem execDecap_ignoresScratch : RunIgnoresScratch execDecap := by
  refine runCommand_ignoresScratch fun s c => ?_
  rw [withScratch_requireDecap]
  rfl

theorem execDec_ignoresScratch : RunIgnoresScratch execDec := by
  refine runCommand_ignoresScratch fun s c => ?_
  rw [withScratch_requireDecap]
  rfl

/-- Settles O51: the checks and the effect of each of the six commands do not depend on the scratch. -/
theorem protocolIgnoresScratch : Obligations.ProtocolIgnoresScratch := by
  unfold Obligations.ProtocolIgnoresScratch
  intro i s t slots acc accValid xs hi h
  let c : Scratch := ⟨slots, acc, accValid, xs⟩
  cases i
  case setup => exact execSetup_ignoresScratch s t c h
  case keygen => exact execKeygen_ignoresScratch s t c h
  case encap => exact execEncap_ignoresScratch s t c h
  case enc => exact execEnc_ignoresScratch s t c h
  case decap => exact execDecap_ignoresScratch s t c h
  case dec => exact execDec_ignoresScratch s t c h
  all_goals cases hi

end Sys2Proof.Machine
end

section
/-! SUPPORT. The inner product of `DECAP` and `DEC` (`44_protocol.md` R145): modulo `2^DU` the schoolbook path over the
integers is the path of the wrapped accumulator, and each coefficient is a sum of negacyclic convolutions. -/

namespace Sys2Proof.Machine

/-! ### Congruent accumulators -/

/-- Integers as residues modulo `m`. -/
def castInts (m : Nat) (v : List Int) : List (ZMod m) := v.map Int.cast

theorem castInts_mulX {m : Nat} {g g' : List Int} (h : castInts m g = castInts m g') :
    castInts m (mulX g) = castInts m (mulX g') := by
  have hmulX (init : List Int) (last : Int) : mulX (init ++ [last]) = -last :: init := by simp [mulX]
  rcases List.eq_nil_or_concat g with rfl | ⟨init, last, rfl⟩
  · rw [List.map_eq_nil_iff.mp h.symm]
  · rcases List.eq_nil_or_concat g' with rfl | ⟨init', last', rfl⟩
    · simp [castInts] at h
    · simp only [castInts, List.concat_eq_append, List.map_append, List.map_cons, List.map_nil] at h
      obtain ⟨hinit, hlast⟩ := List.append_inj' h rfl
      simp only [castInts, List.concat_eq_append, hmulX, List.map_cons, Int.cast_neg, hinit,
        List.singleton_inj.mp hlast]

/-- One round of the schoolbook loop commutes with reduction modulo `m`. -/
theorem castInts_zipWith_add_mul (m : Nat) (a : Int) (acc g : List Int) :
    castInts m (List.zipWith (fun c x => c + a * x) acc g) =
      List.zipWith (fun c x => c + (a : ZMod m) * x) (castInts m acc) (castInts m g) := by
  simp [castInts, List.map_zipWith, List.zipWith_map]

/-- The schoolbook product modulo `m` depends on the accumulator and the second factor modulo `m` alone. -/
theorem castInts_polyMulAdd {m : Nat} {acc acc' g g' : List Int} (f : List Int)
    (hacc : castInts m acc = castInts m acc') (hg : castInts m g = castInts m g') :
    castInts m (polyMulAdd acc f g) = castInts m (polyMulAdd acc' f g') := by
  induction f generalizing acc acc' g g' with
  | nil => exact hacc
  | cons a f ih =>
    rw [polyMulAdd, polyMulAdd]
    exact ih (by rw [castInts_zipWith_add_mul, hacc, hg, castInts_zipWith_add_mul]) (castInts_mulX hg)

/-- Wrapping to 64 bits changes nothing modulo `2^w` for `w <= 64`. -/
theorem cast_toInt_ofInt {w : Nat} (hw : w ≤ 64) (x : Int) :
    (((BitVec.ofInt 64 x).toInt : Int) : ZMod (2 ^ w)) = x := by
  have hdvd : ((2 ^ w : Nat) : Int) ∣ ((2 ^ 64 : Nat) : Int) := Int.natCast_dvd_natCast.mpr (pow_dvd_pow 2 hw)
  rw [BitVec.toInt_ofInt, ZMod.intCast_eq_intCast_iff]
  exact Int.ModEq.of_dvd hdvd (Int.bmod_emod ..)

theorem castInts_macAcc {w : Nat} (hw : w ≤ 64) (acc : List AccCell) (f g : List Nat) :
    castInts (2 ^ w) ((macAcc acc f g).map BitVec.toInt) =
      castInts (2 ^ w) (polyMulAdd (acc.map BitVec.toInt) (f.map Int.ofNat) (g.map Int.ofNat)) := by
  simp only [castInts, macAcc, List.map_map]
  exact List.map_congr_left fun x _ => cast_toInt_ofInt hw x

theorem castInts_map_imod {m : Nat} (hm : 0 < m) (v : List Int) :
    castInts m ((v.map fun x => imod x m).map Int.ofNat) = castInts m v := by
  simp only [castInts, List.map_map]
  refine List.map_congr_left fun x _ => ?_
  simpa using cast_imod x hm

/-- The residues in `[0, m)` depend on the integers modulo `m` alone. -/
theorem map_imod_of_castInts_eq {m : Nat} (hm : 0 < m) {v v' : List Int} (h : castInts m v = castInts m v') :
    (v.map fun x => imod x m) = v'.map fun x => imod x m := by
  have : NeZero m := ⟨hm.ne'⟩
  have hval (u : List Int) : (u.map fun x => imod x m) = (castInts m u).map ZMod.val := by
    simp only [castInts, List.map_map]
    refine List.map_congr_left fun x _ => Int.natCast_inj.mp ?_
    rw [imod_cast x hm, Function.comp_apply, ZMod.val_intCast]
  rw [hval, hval, h]

/-- Two runs of the loop over the same factors, one on integers and one on wrapped cells and residues. -/
theorem castInts_foldl {w : Nat} (hw : w ≤ 64) (l : List Nat) (u : Nat → List Nat) (s : Nat → List Int)
    {acc : List Int} {cells : List AccCell} (h : castInts (2 ^ w) acc = castInts (2 ^ w) (cells.map BitVec.toInt)) :
    castInts (2 ^ w) (l.foldl (fun acc i => polyMulAdd acc ((u i).map Int.ofNat) (s i)) acc) =
      castInts (2 ^ w)
        ((l.foldl (fun cells i => macAcc cells (u i) ((s i).map fun x => imod x (2 ^ w))) cells).map BitVec.toInt) := by
  induction l generalizing acc cells with
  | nil => exact h
  | cons i l ih =>
    refine ih ?_
    rw [castInts_macAcc hw]
    exact castInts_polyMulAdd _ h (castInts_map_imod (Nat.two_pow_pos w) _).symm

/-- Settles O46: the two loops stay congruent modulo `2^DU`, as 64-bit wrapping is invisible there. -/
theorem decapIsTheAccumulatorPath : Obligations.DecapIsTheAccumulatorPath := by
  unfold Obligations.DecapIsTheAccumulatorPath
  intro g sk sct hdu
  have hstart : castInts (2 ^ g.du) (List.replicate g.p.d 0) =
      castInts (2 ^ g.du) ((List.replicate g.p.d (0 : AccCell)).map BitVec.toInt) := by simp
  have hloops := castInts_foldl (hdu.trans (by norm_num)) (List.range g.m)
    (fun i => deserialize g.p (sct.drop (i * g.szu)) g.du)
    (fun i => smallDecode g ((sk.drop (i * g.szs)).take g.szs)) hstart
  rw [decapW, map_imod_of_castInts_eq (Nat.two_pow_pos _) hloops, List.map_map]
  rfl

/-! ### Coefficients -/

section Sums
variable {d : Nat} {u s : Nat → List Int} {acc : List Int}

theorem length_foldl_polyMulAdd (n : Nat) (hacc : acc.length = d) (hs : ∀ i < n, (s i).length = d) :
    ((List.range n).foldl (fun acc i => polyMulAdd acc (u i) (s i)) acc).length = d := by
  induction n with
  | zero => exact hacc
  | succ n ih =>
    have hlen := ih fun i hi => hs i (by omega)
    rw [List.range_succ, List.foldl_append, List.foldl_cons, List.foldl_nil,
      length_polyMulAdd ((hs n (by omega)).trans hlen.symm), hlen]

/-- Schoolbook products added up are a sum of convolutions. -/
theorem getD_foldl_polyMulAdd (n : Nat) (hacc : acc.length = d) (hu : ∀ i < n, (u i).length = d)
    (hs : ∀ i < n, (s i).length = d) {k : Nat} (hk : k < d) :
    ((List.range n).foldl (fun acc i => polyMulAdd acc (u i) (s i)) acc).getD k 0 =
      acc.getD k 0 + ∑ i ∈ Finset.range n, convolution d (fun a => (u i).getD a 0) (fun b => (s i).getD b 0) k := by
  induction n with
  | zero => simp
  | succ n ih =>
    have hlen := length_foldl_polyMulAdd (u := u) n hacc fun i hi => hs i (by omega)
    rw [List.range_succ, List.foldl_append, List.foldl_cons, List.foldl_nil,
      getD_polyMulAdd_convolution hlen (hu n (by omega)) (hs n (by omega)) hk,
      ih (fun i hi => hu i (by omega)) (fun i hi => hs i (by omega)), Finset.sum_range_succ, add_assoc]

end Sums

theorem length_smallDecode {g : Setting} {b : List Byte} (h : b.length = g.szs) :
    (smallDecode g b).length = g.p.d := by
  unfold smallDecode Setting.szs at *
  cases hkind : g.ternary with
  | true => exact length_decodeTernary (by simpa [hkind] using h)
  | false => exact length_decodeBinary (by simpa [hkind] using h)

/-- R145: the secret of row `i` in the secret key. -/
theorem length_secretPart {g : Setting} {sk : List Byte} (hsk : sk.length = g.sklen) {i : Nat} (hi : i < g.m) :
    ((sk.drop (i * g.szs)).take g.szs).length = g.szs := by
  have hrow : (i + 1) * g.szs ≤ g.m * g.szs := Nat.mul_le_mul_right _ hi
  rw [Nat.succ_mul] at hrow
  rw [List.length_take, List.length_drop, hsk, Setting.sklen]
  omega

/-- R145: the coefficients of the inner product. -/
theorem decapW_eq_polyOf {g : Setting} {sk : List Byte} (hsk : sk.length = g.sklen) (sct : List Byte) :
    decapW g sk sct = polyOf g.p (innerOf g sk sct) := by
  have hzero : (List.replicate g.p.d (0 : Int)).length = g.p.d := List.length_replicate
  have hsecret (i : Nat) (hi : i < g.m) := length_smallDecode (length_secretPart hsk hi)
  have hlen := length_foldl_polyMulAdd g.m hzero hsecret
    (u := fun i => (deserialize g.p (sct.drop (i * g.szu)) g.du).map Int.ofNat)
  refine eq_of_at0_eq (by rw [decapW, List.length_map, hlen, length_polyOf]) fun k hk => ?_
  rw [decapW, List.length_map, hlen] at hk
  have hsum := getD_foldl_polyMulAdd g.m hzero (by simp) hsecret hk
    (u := fun i => (deserialize g.p (sct.drop (i * g.szu)) g.du).map Int.ofNat)
  have hints (v : List Nat) (j : Nat) : (v.map Int.ofNat).getD j 0 = (at0 v j : Int) :=
    List.getD_map v 0 Int.ofNat
  simp only [hints, List.getD_replicate _ hk, zero_add] at hsum
  rw [decapW, at0_map _ (hlen.symm ▸ hk) 0, at0_polyOf _ hk, hsum, innerOf]

end Sys2Proof.Machine
end

section
/-! SUPPORT. The protocol operations (`44_protocol.md` R139 to R144, R148, R151), coefficient by coefficient: what each
answers once its samples are there. -/

namespace Sys2Proof.Machine

/-! ### Polynomials from their coefficients -/

theorem polyOf_congr {p : Params} {f f' : Nat → Nat} (h : ∀ j < p.d, f j = f' j) : polyOf p f = polyOf p f' :=
  List.map_congr_left fun j hj => h j (List.mem_range.mp hj)

theorem map_eq_polyOf {p : Params} {v : List Nat} (hv : v.length = p.d) (f : Nat → Nat) :
    v.map f = polyOf p fun j => f (at0 v j) := by
  refine eq_of_at0_eq (by rw [List.length_map, hv, length_polyOf]) fun j hj => ?_
  rw [List.length_map] at hj
  rw [at0_map f hj 0, at0_polyOf _ (hv ▸ hj), at0]

theorem zipWith_eq_polyOf {p : Params} {x y : List Nat} (hx : x.length = p.d) (hy : y.length = p.d)
    (f : Nat → Nat → Nat) : List.zipWith f x y = polyOf p fun j => f (at0 x j) (at0 y j) := by
  have hlen : (List.zipWith f x y).length = p.d := by rw [List.length_zipWith, hx, hy, min_self]
  refine eq_of_at0_eq (by rw [hlen, length_polyOf]) fun j hj => ?_
  rw [hlen] at hj
  rw [at0_zipWith f (hx ▸ hj) (hy ▸ hj), at0_polyOf _ hj]

theorem at0_replicate_zero (n t : Nat) : at0 (List.replicate n 0) t = 0 := by
  by_cases ht : t < n
  · exact List.getD_replicate _ ht
  · exact at0_of_length_le (by simpa using ht)

/-! ### Inner products in the NTT domain -/

/-- A list with its places, from the places alone. -/
theorem zipIdx_eq_map_range {α : Type} (l : List α) (d : α) :
    l.zipIdx = (List.range l.length).map fun i => (l.getD i d, i) := by
  refine List.ext_getElem (by simp) fun i hi _ => ?_
  rw [List.length_zipIdx] at hi
  simp [hi]

theorem getD_mem {α : Type} {l : List α} {i : Nat} (hi : i < l.length) (d : α) : l.getD i d ∈ l := by
  rw [List.getD_eq_getElem l d hi]
  exact List.getElem_mem hi

theorem length_innerNtt (p : Params) (n : Nat) (a : Nat → Nat) (x y : Nat → List Nat) :
    (innerNtt p n a x y).length = p.d := length_polyOf ..

theorem at0_innerNtt {p : Params} {t : Nat} (ht : t < p.d) (n : Nat) (a : Nat → Nat) (x y : Nat → List Nat) :
    at0 (innerNtt p n a x y) t = (a t + ∑ i ∈ Finset.range n, at0 (x i) t * at0 (y i) t) % p.q := at0_polyOf _ ht

theorem innerNtt_zero {p : Params} {a : List Nat} (ha : a.length = p.d) (hlt : ∀ x ∈ a, x < p.q)
    (x y : Nat → List Nat) : innerNtt p 0 (at0 a) x y = a := by
  refine eq_of_at0_eq ((length_innerNtt ..).trans ha.symm) fun j hj => ?_
  rw [length_innerNtt] at hj
  rw [at0_innerNtt hj, Finset.range_zero, Finset.sum_empty, Nat.add_zero,
    Nat.mod_eq_of_lt (hlt _ (at0_mem (ha ▸ hj)))]

theorem innerNtt_succ {p : Params} {n : Nat} {x y : Nat → List Nat} (hx : (x n).length = p.d)
    (hy : (y n).length = p.d) (a : Nat → Nat) :
    innerNtt p (n + 1) a x y = mulAdd p.q (innerNtt p n a x y) (x n) (y n) := by
  have hprod := zipWith_eq_polyOf hx hy fun u v => u * v
  rw [mulAdd, hprod, zipWith_eq_polyOf (length_innerNtt ..) (length_polyOf ..)]
  refine polyOf_congr fun t ht => ?_
  rw [at0_innerNtt ht, at0_polyOf _ ht, Nat.mod_add_mod, Finset.sum_range_succ, Nat.add_assoc]

/-- The loop over the polynomials `F b` of a vector adds up their inner product with the `x i`. -/
theorem foldl_mulAdd_eq_innerNtt {p : Params} {α : Type} {v : List α} {F : α → List Nat} {x : Nat → List Nat}
    {a : List Nat} (ha : a.length = p.d) (hlt : ∀ c ∈ a, c < p.q) (hF : ∀ b ∈ v, (F b).length = p.d)
    (hx : ∀ i < v.length, (x i).length = p.d) (d : α) :
    (v.map F).zipIdx.foldl (fun b z => mulAdd p.q b (x z.2) z.1) a =
      innerNtt p v.length (at0 a) x fun i => F (v.getD i d) := by
  have hrange : ∀ n ≤ v.length,
      (List.range n).foldl (fun b i => mulAdd p.q b (x i) (F (v.getD i d))) a =
        innerNtt p n (at0 a) x fun i => F (v.getD i d) := by
    intro n hn
    induction n with
    | zero => exact (innerNtt_zero ha hlt _ _).symm
    | succ n ih =>
      rw [List.range_succ, List.foldl_append, ih (by omega), List.foldl_cons, List.foldl_nil,
        innerNtt_succ (hx n hn) (hF _ (getD_mem hn d))]
  simp only [zipIdx_eq_map_range _ (F d), List.length_map, List.foldl_map, List.getD_map]
  exact hrange _ le_rfl

theorem foldl_mulAdd_zeroPoly {p : Params} (hq : 0 < p.q) {α : Type} {v : List α} {F : α → List Nat}
    {x : Nat → List Nat} (hF : ∀ b ∈ v, (F b).length = p.d) (hx : ∀ i < v.length, (x i).length = p.d) (d : α) :
    (v.map F).zipIdx.foldl (fun b z => mulAdd p.q b (x z.2) z.1) (zeroPoly p) =
      innerNtt p v.length (fun _ => 0) x fun i => F (v.getD i d) := by
  have hzero : at0 (zeroPoly p) = fun _ => 0 := funext (at0_replicate_zero p.d)
  rw [← hzero]
  refine foldl_mulAdd_eq_innerNtt List.length_replicate (fun c hc => ?_) hF hx d
  rw [List.eq_of_mem_replicate hc]
  exact hq

theorem length_ntti_innerNtt {p : Params} (hp : p.Legal) (n : Nat) (a : Nat → Nat) (x y : Nat → List Nat) :
    (ntti p (innerNtt p n a x y)).length = p.d := length_ntti hp (length_innerNtt ..)

/-! ### Matrices and secrets -/

/-- The entries a configuration uses are polynomials of `D` coefficients. -/
def MatrixOk (g : Setting) (matrix : Nat → Nat → List Nat) : Prop :=
  ∀ i j, i < g.m → j < g.n → (matrix i j).length = g.p.d

/-- R140: the NTT form of the small secret that its bytes encode. -/
def secretNtt (g : Setting) (b : List Byte) : List Nat := nttf g.p (residues g.p.q (smallDecode g b))

theorem length_secretNtt {g : Setting} (hp : g.p.Legal) {b : List Byte} (hb : b.length = g.szs) :
    (secretNtt g b).length = g.p.d := length_nttf hp (by rw [residues, List.length_map, length_smallDecode hb])

theorem secretNtt_lt {g : Setting} (hp : g.p.Legal) (b : List Byte) : ∀ x ∈ secretNtt g b, x < g.p.q :=
  nttf_lt hp (List.forall_mem_map.mpr fun _ _ => imod_lt _ (legal_q_pos hp))

theorem length_of_mem_smallSamples {g : Setting} {st : Nat → Byte} {k pos pos' : Nat} {v : List (List Byte)}
    (h : sampleVec (smallSample g st) k pos = some (v, pos')) : ∀ b ∈ v, b.length = g.szs := by
  intro b hb
  obtain ⟨_, _, hdraw⟩ := sampleVec_mem h b hb
  exact smallSample_length hdraw

theorem length_of_mem_gaussians {p : Params} {sigma : Word} {st : Nat → Byte} {budget k pos pos' : Nat}
    {v : List (List Nat)} (h : sampleVec (sampleGaussian p sigma st budget) k pos = some (v, pos')) :
    ∀ f ∈ v, f.length = p.d := by
  intro f hf
  obtain ⟨_, _, hdraw⟩ := sampleVec_mem h f hf
  exact sampleGaussian_length hdraw

section Operations
variable {g : Setting} {matrix : Nat → Nat → List Nat}

/-! ### Key pairs -/

theorem keygenColumn_eq (hp : g.p.Legal) (hm : MatrixOk g matrix) {sb : List (List Byte)} (hsb : sb.length = g.m)
    (hlen : ∀ b ∈ sb, b.length = g.szs) {j : Nat} (hj : j < g.n) {eb : List Byte} (heb : eb.length = g.szs) :
    keygenColumn g matrix (sb.map (secretNtt g)) j (secretNtt g eb) =
      ntti g.p (innerNtt g.p g.m (at0 (secretNtt g eb)) (fun i => matrix i j) fun i => secretNtt g (sb.getD i [])) := by
  rw [keygenColumn,
    foldl_mulAdd_eq_innerNtt (x := fun i => matrix i j) (length_secretNtt hp heb) (secretNtt_lt hp eb)
      (fun b hb => length_secretNtt hp (hlen b hb)) (fun i hi => hm i j (hsb ▸ hi) hj) [], hsb]

/-- R140: the key pair of the secret and error bytes drawn. -/
theorem keygen_eq (hp : g.p.Legal) (hm : MatrixOk g matrix) {seed : List Byte} {sb eb : List (List Byte)} {p1 p2 : Nat}
    (hsb : sampleVec (smallSample g (xofStream g.p .s (secretKey seed))) g.m 0 = some (sb, p1))
    (heb : sampleVec (smallSample g (xofStream g.p .s (errorKey seed))) g.n 0 = some (eb, p2)) :
    keygen g matrix seed = some (publicKeyOf g matrix sb eb, sb.flatten) := by
  have hn := sampleVec_length heb
  have hcolumns : (eb.map (secretNtt g)).zipIdx.flatMap (fun x =>
      serialize g.p (keygenColumn g matrix (sb.map (secretNtt g)) x.2 x.1) (qbits g.p)) =
      publicKeyOf g matrix sb eb := by
    rw [zipIdx_eq_map_range _ (secretNtt g []), List.length_map, hn, List.flatMap_map, publicKeyOf]
    refine List.flatMap_congr fun j hj => ?_
    have hj : j < g.n := List.mem_range.mp hj
    rw [List.getD_map, keygenColumn_eq hp hm (sampleVec_length hsb) (length_of_mem_smallSamples hsb) hj
      (length_of_mem_smallSamples heb _ (getD_mem (hn.symm ▸ hj) []))]
    rfl
  simp only [keygen, hsb, heb]
  exact congrArg (fun pk => some (pk, sb.flatten)) hcolumns

/-! ### Shared ciphertexts -/

section Ciphertexts
variable {r eu : List (List Nat)}

theorem sharedRow_eq (hp : g.p.Legal) (hm : MatrixOk g matrix) (hr : r.length = g.n)
    (hlen : ∀ f ∈ r, f.length = g.p.d) {i : Nat} (hi : i < g.m) {e : List Nat} (he : e.length = g.p.d) :
    sharedRow g matrix (r.map (nttf g.p)) i e =
      serialize g.p
        (polyOf g.p fun t =>
          compress
            ((at0 (ntti g.p (innerNtt g.p g.n (fun _ => 0) (matrix i) fun j => nttf g.p (r.getD j []))) t + at0 e t) %
              g.p.q) g.du g.p.q) g.du := by
  have hinner := foldl_mulAdd_zeroPoly (x := matrix i) (legal_q_pos hp) (fun f hf => length_nttf hp (hlen f hf))
    (fun j hj => hm i j hi (hr ▸ hj)) []
  rw [hr] at hinner
  simp only [sharedRow, hinner]
  rw [zipWith_eq_polyOf (length_ntti_innerNtt hp ..) he, map_eq_polyOf (length_polyOf ..)]
  exact congrArg (serialize g.p · g.du) (polyOf_congr fun t ht => by rw [at0_polyOf _ ht])

/-- R142: the shared ciphertext of the Gaussian vectors drawn. -/
theorem encShared_eq (hp : g.p.Legal) (hm : MatrixOk g matrix) {seed : List Byte} {p1 p2 : Nat}
    (hr : sampleVec (sampleGaussian g.p g.sigma0 (xofStream g.p .s (sharedKey seed)) g.budget) g.n 0 = some (r, p1))
    (heu : sampleVec (sampleGaussian g.p g.sigma0 (xofStream g.p .s (sharedErrorKey seed)) g.budget) g.m 0 =
      some (eu, p2)) :
    encShared g matrix seed = some (r.map (nttf g.p), sharedOf g matrix r eu) := by
  have hn := sampleVec_length heu
  have hrows : eu.zipIdx.flatMap (fun x => sharedRow g matrix (r.map (nttf g.p)) x.2 x.1) =
      sharedOf g matrix r eu := by
    rw [zipIdx_eq_map_range _ [], hn, List.flatMap_map, sharedOf]
    refine List.flatMap_congr fun i hi => ?_
    have hi : i < g.m := List.mem_range.mp hi
    exact sharedRow_eq hp hm (sampleVec_length hr) (length_of_mem_gaussians hr) hi
      (length_of_mem_gaussians heu _ (getD_mem (hn.symm ▸ hi) []))
  simp only [encShared, hr, heu, hrows]

/-! ### Individual ciphertexts -/

/-- R151: the polynomial of a recipient for the Gaussian polynomial drawn. -/
theorem encIndiv_eq (hp : g.p.Legal) (hr : r.length = g.n) (hlen : ∀ f ∈ r, f.length = g.p.d) {seed : List Byte}
    {k pos : Nat} {y : List Nat}
    (hy : sampleGaussian g.p g.sigma1 (xofStream g.p .s (recipientKey seed k)) g.budget 0 = some (y, pos))
    (pk : List Byte) : encIndiv g seed k pk (r.map (nttf g.p)) = some (individualOf g pk r y, pos) := by
  have hinner := foldl_mulAdd_zeroPoly (x := fun j => nttf g.p (pkPoly g.p pk j)) (legal_q_pos hp)
    (fun f hf => length_nttf hp (hlen f hf)) (fun j _ => length_nttf hp (length_deserialize ..)) []
  rw [hr] at hinner
  simp only [encIndiv, hy, hinner]
  rw [zipWith_eq_polyOf (length_ntti_innerNtt hp ..) (sampleGaussian_length hy), individualOf]

/-- R143: the hint bits of a doubled polynomial. -/
def hintOf (p : Params) (d : List Nat) : List Byte :=
  serialize p (polyOf p fun j => crossRound (at0 d j) (2 * p.q)) 1

/-- R143: the key bits of a doubled polynomial. -/
def keyOf (p : Params) (d : List Nat) : List Byte :=
  serialize p (polyOf p fun j => compress (at0 d j) 1 (2 * p.q)) 1

theorem length_hintOf (p : Params) (d : List Nat) : (hintOf p d).length = szb p := by
  rw [hintOf, length_serialize, packedLen_one]

theorem length_keyOf (p : Params) (d : List Nat) : (keyOf p d).length = szb p := by
  rw [keyOf, length_serialize, packedLen_one]

/-- R143, R151: the doubled polynomial of recipient `k`. -/
def doubledOf (g : Setting) (seed : List Byte) (r : List (List Nat)) (k : Nat) (pk : List Byte) (y : List Nat)
    (pos : Nat) : List Nat :=
  randomizeDouble g.p.q (doubleWord (xofStream g.p .s (recipientKey seed k)) pos) (individualOf g pk r y)

theorem length_individualOf (g : Setting) (pk : List Byte) (r : List (List Nat)) (y : List Nat) :
    (individualOf g pk r y).length = g.p.d := length_polyOf ..

theorem encapOne_eq {seed : List Byte} {rhat : List (List Nat)} {pk : Nat → List Byte} {k pos : Nat} {y : List Nat}
    (h : encIndiv g seed k (pk k) rhat = some (individualOf g (pk k) r y, pos)) :
    encapOne g seed rhat pk k =
      some (hintOf g.p (doubledOf g seed r k (pk k) y pos), keyOf g.p (doubledOf g seed r k (pk k) y pos)) := by
  have hlen : (doubledOf g seed r k (pk k) y pos).length = g.p.d :=
    (length_randomizeDouble ..).trans (length_individualOf ..)
  simp only [encapOne, h]
  rw [← doubledOf, map_eq_polyOf hlen, map_eq_polyOf hlen, hintOf, keyOf]

/-- R144: the individual ciphertext for the polynomial `c` and the message `m`. -/
def ciphertextOf (g : Setting) (c : List Nat) (m : List Byte) : List Byte :=
  serialize g.p
    (polyOf g.p fun j =>
      compress ((at0 c j + decompress (at0 (deserialize g.p m 1) j) 1 g.p.q) % g.p.q) g.dv g.p.q) g.dv

theorem length_ciphertextOf (g : Setting) (c : List Nat) (m : List Byte) : (ciphertextOf g c m).length = g.szv :=
  length_serialize ..

theorem encOne_eq {seed : List Byte} {rhat : List (List Nat)} {pk msg : Nat → List Byte} {k pos : Nat} {y : List Nat}
    (h : encIndiv g seed k (pk k) rhat = some (individualOf g (pk k) r y, pos)) :
    encOne g seed rhat pk msg k = some (ciphertextOf g (individualOf g (pk k) r y) (msg k)) := by
  simp only [encOne, h]
  rw [zipWith_eq_polyOf (length_individualOf ..) (length_deserialize ..), ciphertextOf]

theorem allSome_map_some {α β : Type} {l : List α} {f : α → Option β} {h : α → β} (hf : ∀ x ∈ l, f x = some (h x)) :
    allSome (l.map f) = some (l.map h) := by
  rw [allSome_eq_some, List.map_map]
  exact List.map_congr_left hf

/-- The Gaussian polynomials `y k` of the recipients `k < nr` are drawn, their streams going on at `pos k`. -/
def RecipientsDrawn (g : Setting) (seed : List Byte) (nr : Nat) (y : Nat → List Nat) (pos : Nat → Nat) : Prop :=
  ∀ k, k < nr →
    sampleGaussian g.p g.sigma1 (xofStream g.p .s (recipientKey seed k)) g.budget 0 = some (y k, pos k)

/-- R143: what `ENCAP` stores, for the vectors drawn. -/
theorem encap_eq (hp : g.p.Legal) (hm : MatrixOk g matrix) {seed : List Byte} {p1 p2 nr : Nat}
    {y : Nat → List Nat} {pos : Nat → Nat}
    (hr : sampleVec (sampleGaussian g.p g.sigma0 (xofStream g.p .s (sharedKey seed)) g.budget) g.n 0 = some (r, p1))
    (heu : sampleVec (sampleGaussian g.p g.sigma0 (xofStream g.p .s (sharedErrorKey seed)) g.budget) g.m 0 =
      some (eu, p2))
    (hy : RecipientsDrawn g seed nr y pos) (pk : Nat → List Byte) :
    encap g matrix seed nr pk = some (sharedOf g matrix r eu,
      (List.range nr).map fun k =>
        (hintOf g.p (doubledOf g seed r k (pk k) (y k) (pos k)),
          keyOf g.p (doubledOf g seed r k (pk k) (y k) (pos k)))) := by
  have hone := allSome_map_some (l := List.range nr) (f := encapOne g seed (r.map (nttf g.p)) pk) fun k hk =>
    encapOne_eq (encIndiv_eq hp (sampleVec_length hr) (length_of_mem_gaussians hr) (hy k (List.mem_range.mp hk)) (pk k))
  simp only [encap, encShared_eq hp hm hr heu, hone]

/-- R144: what `ENC` stores, for the vectors drawn. -/
theorem enc_eq (hp : g.p.Legal) (hm : MatrixOk g matrix) {seed : List Byte} {p1 p2 nr : Nat}
    {y : Nat → List Nat} {pos : Nat → Nat}
    (hr : sampleVec (sampleGaussian g.p g.sigma0 (xofStream g.p .s (sharedKey seed)) g.budget) g.n 0 = some (r, p1))
    (heu : sampleVec (sampleGaussian g.p g.sigma0 (xofStream g.p .s (sharedErrorKey seed)) g.budget) g.m 0 =
      some (eu, p2))
    (hy : RecipientsDrawn g seed nr y pos) (pk msg : Nat → List Byte) :
    enc g matrix seed nr pk msg = some (sharedOf g matrix r eu,
      (List.range nr).map fun k => ciphertextOf g (individualOf g (pk k) r (y k)) (msg k)) := by
  have hone := allSome_map_some (l := List.range nr) (f := encOne g seed (r.map (nttf g.p)) pk msg) fun k hk =>
    encOne_eq (encIndiv_eq hp (sampleVec_length hr) (length_of_mem_gaussians hr) (hy k (List.mem_range.mp hk)) (pk k))
  simp only [enc, encShared_eq hp hm hr heu, hone]

end Ciphertexts

/-! ### Decryption -/

/-- R146: the key bits of `DECAP`. -/
theorem decap_eq {sk : List Byte} (hsk : sk.length = g.sklen) (sct hint : List Byte) :
    decap g sk sct hint =
      serialize g.p
        (polyOf g.p fun j => reconcile (innerOf g sk sct j) (at0 (deserialize g.p hint 1) j) (2 ^ g.du)) 1 := by
  rw [decap, decapW_eq_polyOf hsk, zipWith_eq_polyOf (length_polyOf ..) (length_deserialize ..)]
  exact congrArg (serialize g.p · 1) (polyOf_congr fun j hj => by rw [at0_polyOf _ hj])

/-- R147: the message bits of `DEC`. -/
theorem dec_eq {sk : List Byte} (hsk : sk.length = g.sklen) (sct ict : List Byte) :
    dec g sk sct ict =
      serialize g.p
        (polyOf g.p fun j =>
          compress
            (imod ((decompress (at0 (deserialize g.p ict g.dv) j) g.dv (2 ^ g.du) : Int) - innerOf g sk sct j)
              (2 ^ g.du)) 1 (2 ^ g.du)) 1 := by
  rw [dec, decapW_eq_polyOf hsk, zipWith_eq_polyOf (length_polyOf ..) (length_deserialize ..)]
  exact congrArg (serialize g.p · 1) (polyOf_congr fun j hj => by rw [at0_polyOf _ hj])

end Operations

end Sys2Proof.Machine
end

section
/-! SUPPORT. The protocol commands (`44_protocol.md` R139 to R150): where no cause of an error is present and every
sampling ends, what stands in the matrix and in `BMEM` afterwards, and that nothing else changes. -/

namespace Sys2Proof.Machine

/-! ### Byte strings in memory -/

/-- A byte string among others stored in a row stands where no later one covers it (R150). -/
theorem holds_output {m : Memory} (hm : Memory.wf m) (before : List (Nat × List Byte)) (a : Nat) (bs : List Byte)
    {later : List (Nat × List Byte)} {ranges : List (Nat × Nat)} (h : rangesOf later = ranges) :
    Memory.Holds ((before ++ (a, bs) :: later).foldl (fun m x => Memory.writeBytes m x.1 x.2) m) a bs ranges := by
  intro k hk hout
  rw [List.foldl_append, List.foldl_cons, sameOutside_output _ later (a + k) (h ▸ hout)]
  exact Memory.read_writeBytes_inside (Memory.wf_output hm before) a bs hk

theorem Memory.Holds.append {m : Memory} {a : Nat} {l l' : List Byte} {later : List (Nat × Nat)}
    (h : Memory.Holds m a (l ++ l') later) : Memory.Holds m a l later ∧ Memory.Holds m (a + l.length) l' later := by
  refine ⟨fun k hk hout => ?_, fun k hk hout => ?_⟩
  · rw [h k (by rw [List.length_append]; omega) hout, List.getElem_append_left hk]
  · rw [Nat.add_assoc] at hout ⊢
    rw [h (l.length + k) (by rw [List.length_append]; omega) hout, List.getElem_append_right (by omega)]
    simp

/-- Strings of one length stored one after the other: each stands at its own place. -/
theorem Memory.Holds.part {m : Memory} {a n nr : Nat} {f : Nat → List Byte} {later : List (Nat × Nat)}
    (h : Memory.Holds m a ((List.range nr).flatMap f) later) (hlen : ∀ k, (f k).length = n) {k : Nat} (hk : k < nr) :
    Memory.Holds m (a + k * n) (f k) later := by
  induction nr with
  | zero => exact absurd hk (Nat.not_lt_zero k)
  | succ nr ih =>
    rw [List.range_succ, List.flatMap_append] at h
    obtain ⟨hinit, hlast⟩ := h.append
    rcases Nat.lt_succ_iff_lt_or_eq.mp hk with hlt | rfl
    · exact ih hinit hlt
    · rw [length_flatMap_of_forall fun x _ => hlen x, List.length_range] at hlast
      simpa using hlast

section Commands
variable {s : State}

/-! ### The checks -/

theorem setting_legal (hs : s.Sound) : s.setting.p.Legal := hs.legal

/-- Items 2 and 3 of R149: no cause of `ParameterError` in a command with a seed. -/
theorem seed_of_not_parameterCause (h : ¬(s.cfgValid = false ∨ 250 < s.arg 1)) :
    s.cfgValid = true ∧ s.arg 1 ≤ 250 := by
  obtain ⟨hcfg, hlen⟩ := not_or.mp h
  exact ⟨Bool.eq_true_of_not_eq_false hcfg, not_lt.mp hlen⟩

/-- The dimensions of a legal configuration are those of the matrix store. -/
theorem dims_of_not_parameterCause (hs : s.Sound) (h : ¬(s.cfgValid = false ∨ 250 < s.arg 1)) :
    s.cfgM ≤ s.params.maxdim ∧ s.cfgN ≤ s.params.maxdim := by
  obtain ⟨hcfg, -⟩ := seed_of_not_parameterCause h
  obtain ⟨hlegal, -⟩ := hs.config
  exact cfgLegal_dims (hlegal hcfg)

theorem matrixOk_of_not_parameterCause (hs : s.Sound) (h : ¬(s.cfgValid = false ∨ 250 < s.arg 1)) :
    MatrixOk s.setting s.matrix := by
  obtain ⟨hm, hn⟩ := dims_of_not_parameterCause hs h
  obtain ⟨-, -, -, -, hentries, -⟩ := id hs.shape
  intro i j hi hj
  rw [State.matrix, length_natsOf]
  exact hentries _ (entry_mem hs.shape (Nat.lt_of_lt_of_le hi hm) (Nat.lt_of_lt_of_le hj hn))

/-- Item 4 of R149: no cause of `AddrError`. -/
theorem ranges_inBmem {i : Instr} (h : ¬addrCause i s) :
    (inputRanges i s ++ outputRanges i s).Forall fun r => inBmem s.params r.1 r.2 :=
  List.forall_iff_forall_mem.mpr fun r hr => not_not.mp fun hout => h ⟨r, hr, hout⟩

theorem pksOk_of_not_badKey (h : ¬badKey s) : s.pksOk (s.arg 4) = true := by
  simp only [State.pksOk, List.all_eq_true, List.mem_range]
  exact fun k hk j hj => allBelow_of_not_exists fun hx => h ⟨k, hk, j, hj, hx⟩

theorem ternaryOk_of_not_badTrit {l : List Byte} (h : ¬badTrit l) : ternaryOk l = true := by
  simpa [badTrit, ternaryOk] using h

/-! ### Ends -/

/-- The end of a protocol command that stores byte strings. -/
theorem protocolFrame_output {outs : List (Nat × List Byte)} {ranges : List (Nat × Nat)}
    (h : rangesOf outs = ranges) : ProtocolFrame s (s.clearScratch.output outs).finish ranges :=
  ⟨rfl, scratchCleared_clearScratch s, h ▸ sameOutside_output s.bmem outs⟩

/-! ### The matrix -/

/-- The rows of sampled entries, place by place. -/
theorem matrixRows_eq {g : Setting} {seed : List Byte} {a : Nat → Nat → List Nat}
    (h : ∀ i j, i < g.m → j < g.n → ∃ pos,
      sampleUniform g.p (xofStream g.p .a (matrixKey seed i j)) g.budget 0 = some (a i j, pos)) :
    matrixRows g seed = some ((List.range g.m).map fun i => (List.range g.n).map fun j => a i j) := by
  refine allSome_map_some fun i hi => allSome_map_some fun j hj => ?_
  obtain ⟨pos, hpos⟩ := h i j (List.mem_range.mp hi) (List.mem_range.mp hj)
  rw [matrixEntry, hpos, Option.map_some]

/-- R139: a sampled entry stands at its own row and column. -/
theorem entry_newMatrix {rows : List (List (List Nat))} {i j : Nat} {f : List Nat} (hi : i < s.params.maxdim)
    (hj : j < s.params.maxdim) (h : (rows[i]?.bind fun row => row[j]?) = some f) :
    (s.newMatrix rows).getD (i * s.params.maxdim + j) [] = cellsOf f := by
  have hplace : i * s.params.maxdim + j < s.params.maxdim * s.params.maxdim := by
    have := Nat.mul_le_mul_right s.params.maxdim hi
    rw [Nat.succ_mul] at this
    omega
  have hrow : (i * s.params.maxdim + j) / s.params.maxdim = i := by
    rw [Nat.mul_comm, Nat.mul_add_div (by omega), Nat.div_eq_of_lt hj, Nat.add_zero]
  have hcol : (i * s.params.maxdim + j) % s.params.maxdim = j := by
    rw [Nat.mul_comm, Nat.mul_add_mod, Nat.mod_eq_of_lt hj]
  rw [List.getD_eq_getElem _ _ (by simpa using hplace)]
  simp only [State.newMatrix, List.getElem_map, List.getElem_range, hrow, hcol, h]

theorem setup_run {rows : List (List (List Nat))} (h : noCause .setup s)
    (hrows : matrixRows s.setting s.seed = some rows) :
    exec .setup s = .next
      ({ s.clearScratch with
        amat := s.newMatrix rows, aValid := true, freeCtr := s.freeCtr + 1 } : State).finish := by
  obtain ⟨hw, hparam, -, -, haddr, -⟩ := h
  obtain ⟨hcfg, hlen⟩ := seed_of_not_parameterCause hparam
  have hseed : inBmem s.params (s.arg 0) (s.arg 1) := ranges_inBmem haddr
  change execSetup s = _
  refine runCommand_done hw ?_
  simp only [requireSeed_eq_done, requireRange_eq_done, clearScratch_setting, clearScratch_seed, hrows]
  exact ⟨hcfg, hlen, hseed, rfl⟩

/-! ### Key pairs and ciphertexts -/

theorem keygen_run {pk sk : List Byte} (h : noCause .keygen s)
    (hkeys : keygen s.setting s.matrix s.seed = some (pk, sk)) :
    exec .keygen s = .next (s.clearScratch.output [(s.arg 2, pk), (s.arg 3, sk)]).finish := by
  obtain ⟨hw, hparam, hempty, -, haddr, -⟩ := h
  obtain ⟨hcfg, hlen⟩ := seed_of_not_parameterCause hparam
  have hmatrix : s.aValid = true := Bool.eq_true_of_not_eq_false hempty
  obtain ⟨hseed, hpk, hsk⟩ := ranges_inBmem haddr
  change execKeygen s = _
  refine runCommand_done hw ?_
  simp only [requireSeed_eq_done, requireMatrix_eq_done, requireRange_eq_done, clearScratch_setting,
    clearScratch_matrix, clearScratch_seed, hkeys]
  exact ⟨hcfg, hlen, hmatrix, hseed, hpk, hsk, rfl⟩

theorem encap_run {sct : List Byte} {hk : List (List Byte × List Byte)} (h : noCause .encap s)
    (hout : encap s.setting s.matrix s.seed (s.arg 4) s.pkOf = some (sct, hk)) :
    exec .encap s = .next
      (s.clearScratch.output
        [(s.arg 5, sct), (s.arg 6, hk.flatMap Prod.fst), (s.arg 7, hk.flatMap Prod.snd)]).finish := by
  obtain ⟨hw, hparam, hempty, -, haddr, hdecode⟩ := h
  obtain ⟨hcfg, hlen⟩ := seed_of_not_parameterCause hparam
  have hmatrix : s.aValid = true := Bool.eq_true_of_not_eq_false hempty
  obtain ⟨hseed, hpks, hsct, hhints, hkeys⟩ := ranges_inBmem haddr
  obtain ⟨hshort, hbad⟩ := not_or.mp hdecode
  change execEncap s = _
  refine runCommand_done hw ?_
  simp only [requireSeed_eq_done, requireMatrix_eq_done, requireRange_eq_done, require_eq_done, clearScratch_setting,
    clearScratch_matrix, clearScratch_seed, clearScratch_arg, clearScratch_pkOf, hout]
  exact ⟨hcfg, hlen, hmatrix, hseed, hpks, hsct, hhints, hkeys, not_lt.mp hshort, pksOk_of_not_badKey hbad, trivial⟩

theorem enc_run {sct : List Byte} {cts : List (List Byte)} (h : noCause .enc s)
    (hout : enc s.setting s.matrix s.seed (s.arg 4) s.pkOf s.msgOf = some (sct, cts)) :
    exec .enc s = .next (s.clearScratch.output [(s.arg 5, sct), (s.arg 6, cts.flatten)]).finish := by
  obtain ⟨hw, hparam, hempty, -, haddr, hdecode⟩ := h
  obtain ⟨hcfg, hlen⟩ := seed_of_not_parameterCause hparam
  have hmatrix : s.aValid = true := Bool.eq_true_of_not_eq_false hempty
  obtain ⟨hseed, hpks, hmsgs, hsct, hcts⟩ := ranges_inBmem haddr
  obtain ⟨hshort, hdecode⟩ := not_or.mp hdecode
  obtain ⟨hshortMsgs, hbad⟩ := not_or.mp hdecode
  change execEnc s = _
  refine runCommand_done hw ?_
  simp only [requireSeed_eq_done, requireMatrix_eq_done, requireRange_eq_done, require_eq_done, clearScratch_setting,
    clearScratch_matrix, clearScratch_seed, clearScratch_arg, clearScratch_pkOf, clearScratch_msgOf, hout]
  exact ⟨hcfg, hlen, hmatrix, hseed, hpks, hmsgs, hsct, hcts, not_lt.mp hshort, not_lt.mp hshortMsgs,
    pksOk_of_not_badKey hbad, trivial⟩

/-! ### Decryption -/

theorem length_skBytes (s : State) : s.skBytes.length = s.setting.sklen := Memory.length_readBytes ..

/-- The checks of `DECAP` and `DEC` pass. -/
theorem requireDecap_of {n : Nat} (k : Result) (hcfg : ¬s.cfgValid = false)
    (hin : inBmem s.params (s.arg 0) s.setting.sklen ∧ inBmem s.params (s.arg 2) s.setting.sctlen ∧
      inBmem s.params (s.arg 4) n ∧ inBmem s.params (s.arg 6) (szb s.params))
    (hdecode : ¬(s.arg 1 < s.setting.sklen ∨ s.arg 3 < s.setting.sctlen ∨ s.arg 5 < n ∨
      s.cfgKind = 1 ∧ badTrit s.skBytes)) : requireDecap s n k = k := by
  obtain ⟨hsk, hsct, hct, hout⟩ := hin
  obtain ⟨hshortSk, hdecode⟩ := not_or.mp hdecode
  obtain ⟨hshortSct, hdecode⟩ := not_or.mp hdecode
  obtain ⟨hshortCt, htrits⟩ := not_or.mp hdecode
  have hternary : s.setting.ternary = false ∨ ternaryOk s.skBytes = true :=
    (not_and_or.mp htrits).imp beq_eq_false_iff_ne.mpr ternaryOk_of_not_badTrit
  rw [requireDecap, requireConfig, require_of (Bool.eq_true_of_not_eq_false hcfg), requireRange, require_of hsk,
    requireRange, require_of hsct, requireRange, require_of hct, requireRange, require_of hout,
    require_of (not_lt.mp hshortSk), require_of (not_lt.mp hshortSct), require_of (not_lt.mp hshortCt),
    require_of hternary]

theorem decap_run (h : noCause .decap s) :
    exec .decap s = .next
      (s.clearScratch.output
        [(s.arg 6, decap s.setting s.skBytes s.sctBytes (Memory.readBytes s.bmem (s.arg 4) (szb s.params)))]).finish := by
  obtain ⟨hw, hparam, -, -, haddr, hdecode⟩ := h
  change execDecap s = _
  exact runCommand_done hw (requireDecap_of (s := s.clearScratch) _ hparam (ranges_inBmem haddr) hdecode)

theorem dec_run (h : noCause .dec s) :
    exec .dec s = .next
      (s.clearScratch.output
        [(s.arg 6, dec s.setting s.skBytes s.sctBytes (Memory.readBytes s.bmem (s.arg 4) s.setting.szv))]).finish := by
  obtain ⟨hw, hparam, -, -, haddr, hdecode⟩ := h
  change execDec s = _
  exact runCommand_done hw (requireDecap_of (s := s.clearScratch) _ hparam (ranges_inBmem haddr) hdecode)

/-- A command that stores one byte string. -/
theorem storeOne_ends {i : Instr} {a n : Nat} {bs : List Byte} (hs : s.Sound)
    (hrun : exec i s = .next (s.clearScratch.output [(a, bs)]).finish) (hlen : bs.length = n) :
    ∃ t, exec i s = .next t ∧ Memory.Holds t.bmem a bs [] ∧ ProtocolFrame s t [(a, n)] := by
  obtain ⟨hwf, -⟩ := hs.memory
  exact ⟨_, hrun, holds_output hwf [] a bs rfl, protocolFrame_output (by rw [← hlen]; rfl)⟩

end Commands

/-- Settles O31: the rows are those of the samples, and each stands at its place of the new matrix. -/
theorem setupCommand : Obligations.SetupCommand := by
  unfold Obligations.SetupCommand
  intro s a hs h hsampled
  have hrows : matrixRows s.setting s.seed =
      some ((List.range s.cfgM).map fun i => (List.range s.cfgN).map fun j => a i j) := matrixRows_eq hsampled
  refine ⟨_, setup_run h hrows, rfl, scratchCleared_clearScratch s, fun i j hi hj => ?_⟩
  obtain ⟨-, hparam, -⟩ := h
  obtain ⟨hm, hn⟩ := dims_of_not_parameterCause hs hparam
  obtain ⟨pos, hpos⟩ := hsampled i j hi hj
  have hentry := entry_newMatrix (s := s) (f := a i j) (hi.trans_le hm) (hj.trans_le hn)
    (rows := (List.range s.cfgM).map fun i => (List.range s.cfgN).map fun j => a i j) (by simp [hi, hj])
  exact (congrArg natsOf hentry).trans (natsOf_cellsOf (lt_cell_of_lt_q hs.legal (sampleUniform_lt hpos)))

/-- Settles O32: the key pair of the bytes drawn is stored, public key first. -/
theorem keygenCommand : Obligations.KeygenCommand := by
  unfold Obligations.KeygenCommand
  rintro s g sb eb p1 p2 hs h rfl hsb heb
  obtain ⟨-, hparam, -⟩ := id h
  have hkeys := keygen_eq (setting_legal hs) (matrixOk_of_not_parameterCause hs hparam) hsb heb
  obtain ⟨hpk, hsk⟩ := keygen_length hkeys
  obtain ⟨hwf, -⟩ := hs.memory
  refine ⟨_, keygen_run h hkeys, holds_output hwf [] _ _ ?_, holds_output hwf [(s.arg 2, _)] _ _ rfl,
    protocolFrame_output ?_⟩
  all_goals
    simp only [rangesOf, List.map, hpk, hsk]
    rfl

/-- Settles O33: hints and keys are stored as one string each, in which each recipient has its place. -/
theorem encapCommand : Obligations.EncapCommand := by
  unfold Obligations.EncapCommand
  rintro s g r eu p1 p2 y pos hs h rfl hr heu hy
  obtain ⟨-, hparam, -⟩ := id h
  have hout := encap_eq (setting_legal hs) (matrixOk_of_not_parameterCause hs hparam) hr heu hy s.pkOf
  obtain ⟨hsct, hhints, hkeys⟩ := encap_length hout
  obtain ⟨hwf, -⟩ := hs.memory
  have hrun := encap_run h hout
  simp only [List.flatMap_map] at hrun hhints hkeys
  refine ⟨_, hrun, holds_output hwf [] _ _ ?_, fun k hk => ⟨?_, ?_⟩, protocolFrame_output ?_⟩
  · simp only [rangesOf, List.map, hhints, hkeys]
    rfl
  · exact (holds_output hwf [(s.arg 5, _)] _ _ (by simp only [rangesOf, List.map, hkeys]; rfl)).part
      (fun k => length_hintOf ..) hk
  · exact (holds_output hwf [(s.arg 5, _), (s.arg 6, _)] _ _ rfl).part (fun k => length_keyOf ..) hk
  · simp only [rangesOf, List.map, hsct, hhints, hkeys]
    rfl

/-- Settles O34: the individual ciphertexts are stored as one string, in which each recipient has its place. -/
theorem encCommand : Obligations.EncCommand := by
  unfold Obligations.EncCommand
  rintro s g r eu p1 p2 y pos hs h rfl hr heu hy
  obtain ⟨-, hparam, -⟩ := id h
  have hout := enc_eq (setting_legal hs) (matrixOk_of_not_parameterCause hs hparam) hr heu hy s.pkOf s.msgOf
  obtain ⟨hsct, hcts⟩ := enc_length hout
  obtain ⟨hwf, -⟩ := hs.memory
  have hrun := enc_run h hout
  rw [← List.flatMap_def] at hrun hcts
  refine ⟨_, hrun, holds_output hwf [] _ _ ?_, fun k hk => ?_, protocolFrame_output ?_⟩
  · simp only [rangesOf, List.map, hcts]
  · exact (holds_output hwf [(s.arg 5, _)] _ _ rfl).part (fun k => length_ciphertextOf ..) hk
  · simp only [rangesOf, List.map, hsct, hcts]
    rfl

/-- Settles O35: the checks pass, and the bits stored are those of the inner product. -/
theorem decapCommand : Obligations.DecapCommand := by
  unfold Obligations.DecapCommand
  rintro s g hs h rfl
  have hrun := decap_run h
  have hlen := decap_length s.setting s.skBytes s.sctBytes (Memory.readBytes s.bmem (s.arg 4) (szb s.params))
  rw [decap_eq (length_skBytes s)] at hrun hlen
  exact storeOne_ends hs hrun hlen

/-- Settles O36: the checks pass, and the bits stored are those of the difference. -/
theorem decCommand : Obligations.DecCommand := by
  unfold Obligations.DecCommand
  rintro s g hs h rfl
  have hrun := dec_run h
  have hlen := dec_length s.setting s.skBytes s.sctBytes (Memory.readBytes s.bmem (s.arg 4) s.setting.szv)
  rw [dec_eq (length_skBytes s)] at hrun hlen
  exact storeOne_ends hs hrun hlen

end Sys2Proof.Machine
end

section
/-! SUPPORT. The command port word by word (`60_exceptions.md` R163, R171): in `IDLE` every word is a command or raises
`IllegalCommand`; in `BUSY` and in `ERROR` words are dropped. -/

namespace Sys2Proof.Machine

/-! ### Dropped words -/

theorem commandPort_of_busy {s : State} (hp : s.phase = .busy) (w : Cmd) : commandPort w s = .next s := by
  simp only [commandPort, hp]

/-- Settles O6: the answers of the ports in `BUSY` and in `ERROR`. -/
theorem wordsDropped : Obligations.WordsDropped := by
  unfold Obligations.WordsDropped
  intro s
  refine ⟨fun hp => commandPort_of_busy hp, fun hp => ?_⟩
  have hbusy : s.phase ≠ .busy := by simp [hp]
  exact ⟨fun w => commandPort_other_of_error hp, step_csrWrite hbusy, step_csrRead s,
    fun a ha => ⟨hostPort_bmemWrite hbusy ha, hostPort_bmemRead hbusy ha⟩⟩

/-! ### Words in `IDLE` -/

open Laws.Opcode (opcode)

theorem opcode_encode (i : Instr) : (encode i).extractLsb' 0 8 = opcode i := by
  obtain ⟨hop, -⟩ := parse_eq_some (parse_encode i)
  exact hop

/-- The opcodes that `30_encoding.md` R67 keeps out of the opcode map. -/
def IllegalOpcode (op : Nat) : Prop :=
  0x03 ≤ op ∧ op ≤ 0x0F ∨ 0x1B ≤ op ∧ op ≤ 0x1F ∨ 0x28 ≤ op ∧ op ≤ 0x2F ∨ 0x37 ≤ op ∧ op ≤ 0x3F ∨ 0x46 ≤ op

theorem not_illegalOpcode (i : Instr) : ¬IllegalOpcode (opcode i).toNat := by
  cases i <;> simp [opcode, IllegalOpcode]

/-- A word that is the word of no well-formed command does not decode. -/
theorem decode_ne_ok_of_forall_encode_ne {p : Params} {w : Cmd}
    (h : ∀ i : Instr, i.wellFormed p = true → encode i ≠ w) : ∀ i, decode p w ≠ .ok i := by
  intro i hi
  obtain ⟨hword, hwf⟩ := decodeThenEncode p w i hi
  exact h i hwf hword

/-- Settles O4: a word decodes exactly when it is the word of a well-formed command, and no command has an opcode of the
illegal ranges. -/
theorem everyWordIsLegalOrRaises : Obligations.EveryWordIsLegalOrRaises := by
  unfold Obligations.EveryWordIsLegalOrRaises
  intro s w hp
  refine ⟨?legal, ?illegal, ?opcodes⟩
  case legal =>
    rintro i hwf rfl
    exact (stepRunsDecodedCommand s _ i hp (encodeThenDecode _ i hwf)).1
  case illegal =>
    intro h
    exact (step_offer s (.command w)).trans (commandPort_of_not_decode hp (decode_ne_ok_of_forall_encode_ne h))
  case opcodes =>
    rintro op rfl hop i rfl
    rw [opcode_encode] at hop
    exact not_illegalOpcode i hop

end Sys2Proof.Machine
end

section
/-! SUPPORT. The errors of the commands (`60_exceptions.md`): the checks each command makes, as a list in the order of
the rule, and the error of the first check that fails. -/

namespace Sys2Proof.Machine

/-! ### The order of the classes (R168) -/

/-- The place of an error's class in the order of R168. -/
@[simp] def ErrorKind.rank : ErrorKind → Nat
  | .illegalCommand => 0
  | .parameterError => 1
  | .emptyError => 2
  | .domainError => 3
  | .addrError => 4
  | .decodeError => 5

theorem ErrorKind.rank_injective : Function.Injective ErrorKind.rank := by
  intro e e' h
  cases e <;> cases e' <;> simp_all

theorem ErrorKind.forall_iff {P : ErrorKind → Prop} : (∀ e, P e) ↔
    P .illegalCommand ∧ P .parameterError ∧ P .emptyError ∧ P .domainError ∧ P .addrError ∧ P .decodeError := by
  constructor
  · exact fun h => ⟨h _, h _, h _, h _, h _, h _⟩
  · rintro ⟨hillegal, hparameter, hempty, hdomain, haddr, hdecode⟩ e
    cases e <;> assumption

/-! ### Lists of checks -/

/-- A check: the error it raises, and what it asks. -/
abbrev Check := ErrorKind × Prop

/-- A check of the list that raises `e` fails. -/
def Fails (e : ErrorKind) (l : List Check) : Prop := ∃ x ∈ l, x.1 = e ∧ ¬x.2

@[simp] theorem not_fails_nil (e : ErrorKind) : ¬Fails e [] := by simp [Fails]

@[simp] theorem fails_cons {e e' : ErrorKind} {c : Prop} {l : List Check} :
    Fails e ((e', c) :: l) ↔ (e' = e ∧ ¬c) ∨ Fails e l := by simp [Fails]

/-- The result makes the checks of the list one after the other, and raises no error after them. -/
inductive Checked : List Check → Result → Prop
  | nil {r : Result} (h : ∀ e, r ≠ .fail e) : Checked [] r
  | cons {c : Prop} [Decidable c] {e : ErrorKind} {l : List Check} {k : Result} (h : Checked l k) :
      Checked ((e, c) :: l) (require c e k)

/-- Where checks fail, one of them is the error raised. -/
theorem Checked.fails_of_eq_fail {l : List Check} {r : Result} {e : ErrorKind} (h : Checked l r) (hr : r = .fail e) :
    Fails e l := by
  induction h with
  | nil hne => exact absurd hr (hne e)
  | cons _ ih =>
    rw [fails_cons]
    rcases require_eq_fail.mp hr with ⟨-, hk⟩ | ⟨hc, he⟩
    · exact .inr (ih hk)
    · exact .inl ⟨he, hc⟩

/-- Where the checks stand in the order of the classes, the first class that fails is the error raised. -/
theorem Checked.eq_fail {l : List Check} {r : Result} {e : ErrorKind} (h : Checked l r)
    (hl : l.Pairwise fun x y => x.1.rank ≤ y.1.rank) (he : Fails e l)
    (hfirst : ∀ e', e'.rank < e.rank → ¬Fails e' l) : r = .fail e := by
  induction h with
  | nil => exact absurd he (not_fails_nil e)
  | @cons c _ e₁ l k _ ih =>
    obtain ⟨hhead, htail⟩ := List.pairwise_cons.mp hl
    simp only [fails_cons, not_or] at hfirst
    rcases Classical.em c with hc | hc
    · have hel : Fails e l := (fails_cons.mp he).resolve_left fun hh => hh.2 hc
      rw [require_of hc]
      exact ih htail hel fun e' hlt => (hfirst e' hlt).2
    · have hle : e₁.rank ≤ e.rank := by
        rcases fails_cons.mp he with ⟨rfl, -⟩ | ⟨x, hx, rfl, -⟩
        · exact le_rfl
        · exact hhead x hx
      have hge : e.rank ≤ e₁.rank := not_lt.mp fun hlt => (hfirst e₁ hlt).1 ⟨rfl, hc⟩
      rw [require_of_not hc, ErrorKind.rank_injective (le_antisymm hle hge)]

/-! ### The checks of each command -/

/-- A source slot is not `EMPTY` (R164). -/
abbrev slotFull (s : State) (n : BitVec 8) : Check := (.emptyError, (s.slot n).tag ≠ .empty)

/-- A stream context is valid (R164). -/
abbrev streamValid (s : State) (k : BitVec 2) : Check := (.emptyError, (s.stream k).valid = true)

/-- A byte range lies inside `BMEM` (R166). -/
abbrev rangeInside (s : State) (a n : Nat) : Check := (.addrError, inBmem s.params a n)

/-- The session is configured (`40_system.md` R78). -/
abbrev configured (s : State) : Check := (.parameterError, s.cfgValid = true)

/-- The seed input is short enough (`44_protocol.md` R136). -/
abbrev seedShort (s : State) : Check := (.parameterError, s.arg 1 ≤ 250)

/-- The matrix has been derived (R164). -/
abbrev matrixValid (s : State) : Check := (.emptyError, s.aValid = true)

/-- The accumulator is valid (R164). -/
abbrev accumulatorValid (s : State) : Check := (.emptyError, s.accValid = true)

/-- A source tag is accepted (R165). -/
abbrev domainOk (accepted : Bool) : Check := (.domainError, accepted = true)

/-- The seed range of the protocol commands lies inside `BMEM`. -/
abbrev seedInside (s : State) : Check := rangeInside s (s.arg 0) (s.arg 1)

/-- The checks `DECAP` and `DEC` share, `len` being the length of the individual ciphertext (R146, R147). -/
def decapChecks (s : State) (len : Nat) : List Check :=
  [configured s, rangeInside s (s.arg 0) s.setting.sklen, rangeInside s (s.arg 2) s.setting.sctlen,
    rangeInside s (s.arg 4) len, rangeInside s (s.arg 6) (szb s.params), (.decodeError, s.setting.sklen ≤ s.arg 1),
    (.decodeError, s.setting.sctlen ≤ s.arg 3), (.decodeError, len ≤ s.arg 5),
    (.decodeError, s.setting.ternary = false ∨ ternaryOk s.skBytes = true)]

/-- The checks of a command after the static ones, in the order in which its rule makes them. -/
def checks (i : Instr) (s : State) : List Check :=
  match i with
  | .nop | .clrerr | .aclr => []
  | .ldcfg => [(.parameterError, s.cfgLegal = true)]
  | .ntt _ pa | .snorm _ pa => [slotFull s pa, domainOk ((s.slot pa).tag == .coef)]
  | .intt _ pa => [slotFull s pa, domainOk ((s.slot pa).tag == .ntt)]
  | .muln _ pa pb =>
    [slotFull s pa, slotFull s pb, domainOk ((s.slot pa).tag == .ntt && (s.slot pb).tag == .ntt)]
  | .add _ pa pb msel _ | .sub _ pa pb msel _ =>
    [slotFull s pa, slotFull s pb, domainOk (addTags msel (s.slot pa).tag (s.slot pb).tag)]
  | .scale _ pa _ => [slotFull s pa, domainOk ((s.slot pa).tag == .coef || (s.slot pa).tag == .ntt)]
  | .macs pa pb =>
    [accumulatorValid s, slotFull s pa, slotFull s pb, domainOk (macTag (s.slot pa).tag && macTag (s.slot pb).tag)]
  | .ared _ _ _ => [accumulatorValid s]
  | .geta _ r c => [configured s, (.parameterError, r.toNat < s.cfgM ∧ c.toNat < s.cfgN), matrixValid s]
  | .xinita _ len addr | .xinits _ len addr => [rangeInside s addr.toNat len.toNat]
  | .smpu _ k _ => [streamValid s k]
  | .smpt k addr => [streamValid s k, rangeInside s addr.toNat (szt s.params)]
  | .smpb k addr => [streamValid s k, rangeInside s addr.toNat (szb s.params)]
  | .smpg _ k _ => [configured s, streamValid s k]
  | .dect _ _ addr =>
    [rangeInside s addr.toNat (szt s.params), (.decodeError, szt s.params ≤ s.inLen.toNat),
      (.decodeError, ternaryOk (Memory.readBytes s.bmem addr.toNat (szt s.params)) = true)]
  | .decb _ _ addr =>
    [rangeInside s addr.toNat (szb s.params), (.decodeError, szb s.params ≤ s.inLen.toNat)]
  | .ser ps bits addr =>
    [slotFull s ps, rangeInside s addr.toNat (packedLen s.params bits.toNat),
      (.decodeError, allBelow (2 ^ bits.toNat) (s.coeffs ps) = true)]
  | .deser _ bits aux8 addr =>
    [rangeInside s addr.toNat (packedLen s.params bits.toNat),
      (.decodeError, packedLen s.params bits.toNat ≤ s.inLen.toNat),
      (.decodeError, aux8 = 0 ∨ allBelow s.params.q
        (deserialize s.params (Memory.readBytes s.bmem addr.toNat (packedLen s.params bits.toNat)) bits.toNat) = true)]
  | .comp _ pa _ msel _ | .xrnd _ pa msel _ => [slotFull s pa, domainOk ((s.slot pa).tag == modTag msel)]
  | .dcmp _ pa _ _ _ => [slotFull s pa, domainOk ((s.slot pa).tag == .raw)]
  | .rdbl _ pa k => [slotFull s pa, streamValid s k, (.domainError, (s.slot pa).tag = .coef)]
  | .recn _ pa pb msel _ =>
    [slotFull s pa, slotFull s pb, (.domainError, (s.slot pa).tag = modTag msel ∧ (s.slot pb).tag = .raw),
      (.decodeError, allBelow 2 (s.coeffs pb) = true)]
  | .setup => [configured s, seedShort s, seedInside s]
  | .keygen =>
    [configured s, seedShort s, matrixValid s, seedInside s, rangeInside s (s.arg 2) s.setting.pklen,
      rangeInside s (s.arg 3) s.setting.sklen]
  | .encap =>
    [configured s, seedShort s, matrixValid s, seedInside s, rangeInside s (s.arg 2) (s.arg 4 * s.setting.pklen),
      rangeInside s (s.arg 5) s.setting.sctlen, rangeInside s (s.arg 6) (s.arg 4 * szb s.params),
      rangeInside s (s.arg 7) (s.arg 4 * szb s.params), (.decodeError, s.arg 4 * s.setting.pklen ≤ s.arg 3),
      (.decodeError, s.pksOk (s.arg 4) = true)]
  | .enc =>
    [configured s, seedShort s, matrixValid s, seedInside s, rangeInside s (s.arg 2) (s.arg 4 * s.setting.pklen),
      rangeInside s (s.arg 7) (s.arg 4 * szb s.params), rangeInside s (s.arg 5) s.setting.sctlen,
      rangeInside s (s.arg 6) (s.arg 4 * s.setting.szv), (.decodeError, s.arg 4 * s.setting.pklen ≤ s.arg 3),
      (.decodeError, s.arg 4 * szb s.params ≤ s.arg 8), (.decodeError, s.pksOk (s.arg 4) = true)]
  | .decap => decapChecks s (szb s.params)
  | .dec => decapChecks s s.setting.szv

theorem Checked.done (t : State) : Checked [] (.done t) := .nil nofun

theorem checked_sampled {α : Type} (k : BitVec 2) (r : Option (α × Nat)) (effect : α → State → State) (s : State) :
    Checked [] (sampled k r effect s) := by
  refine .nil fun e => ?_
  unfold sampled
  split <;> exact nofun

/-- The outcome is that of a run of the command whose body makes the command's checks. -/
def RunChecked (i : Instr) (s : State) (o : Host.Outcome State Fault Refusal) : Prop :=
  ∃ body, o = runCommand i (prepOf i) body s ∧ Checked (checks i s) (body (prepOf i s))

theorem checked_requireDecap (s : State) (n : Nat) {k : Result} (h : Checked [] k) :
    Checked (decapChecks s n) (requireDecap s n k) := by
  iterate 9 apply Checked.cons
  exact h

/-- Every command is the run of a body that makes the checks of its list. -/
theorem exec_checked (i : Instr) (s : State) : RunChecked i s (exec i s) := by
  cases i
  all_goals dsimp only [exec]
  case nop | clrerr | aclr => exact ⟨_, rfl, .done _⟩
  case ldcfg | ared | xinita | xinits => exact ⟨_, rfl, .cons (.done _)⟩
  case ntt | intt | scale | snorm | comp | dcmp | xrnd | decb => exact ⟨_, rfl, .cons (.cons (.done _))⟩
  case muln | add | sub | geta | rdbl | dect | ser | deser => exact ⟨_, rfl, .cons (.cons (.cons (.done _)))⟩
  case macs | recn => exact ⟨_, rfl, .cons (.cons (.cons (.cons (.done _))))⟩
  case smpu => exact ⟨_, rfl, .cons (checked_sampled ..)⟩
  case smpt | smpb | smpg => exact ⟨_, rfl, .cons (.cons (checked_sampled ..))⟩
  case setup =>
    refine ⟨_, rfl, .cons (.cons (.cons (.nil fun e => ?_)))⟩
    split <;> exact nofun
  case keygen =>
    refine ⟨_, rfl, ?_⟩
    iterate 6 apply Checked.cons
    refine .nil fun e => ?_
    split <;> exact nofun
  case encap =>
    refine ⟨_, rfl, ?_⟩
    iterate 10 apply Checked.cons
    refine .nil fun e => ?_
    split <;> exact nofun
  case enc =>
    refine ⟨_, rfl, ?_⟩
    iterate 11 apply Checked.cons
    refine .nil fun e => ?_
    split <;> exact nofun
  case decap | dec => exact ⟨_, rfl, checked_requireDecap _ _ (.done _)⟩

/-- Every rule makes its checks in the order of the classes (R168). -/
theorem checks_pairwise (i : Instr) (s : State) : (checks i s).Pairwise fun x y => x.1.rank ≤ y.1.rank := by
  cases i <;> simp [checks, decapChecks]

/-- No check raises an error that the table of R177 does not list for the command. -/
theorem checks_allowed (i : Instr) (s : State) : ∀ x ∈ checks i s, x.1 ∈ allowedErrors i := by
  cases i <;> simp [checks, decapChecks, allowedErrors]

/-! ### The causes -/

/-- The causes of a class: of `IllegalCommand` the static checks, of the others the tables of R162 and R164 to R167. -/
@[simp] def causeOf (i : Instr) (s : State) : ErrorKind → Prop
  | .illegalCommand => i.wellFormed s.params = false
  | .parameterError => parameterCause i s
  | .emptyError => emptyCause i s
  | .domainError => domainCause i s
  | .addrError => addrCause i s
  | .decodeError => decodeCause i s

theorem allBelow_eq_false_iff {m : Nat} {v : List Nat} : allBelow m v = false ↔ ∃ x ∈ v, m ≤ x := by
  simp [allBelow]

theorem ternaryOk_eq_false_iff {l : List Byte} : ternaryOk l = false ↔ badTrit l := by
  simp [ternaryOk, badTrit]

theorem pksOk_eq_false_iff {s : State} : s.pksOk (s.arg 4) = false ↔ badKey s := by
  simp [State.pksOk, badKey, allBelow]

section Causes
variable (i : Instr) (s : State)

theorem not_fails_illegalCommand : ¬Fails .illegalCommand (checks i s) := by
  rintro ⟨x, hx, hillegal, -⟩
  have hlisted : .illegalCommand ∈ allowedErrors i := hillegal ▸ checks_allowed i s x hx
  revert hlisted
  cases i <;> simp [allowedErrors]

/-- Row by row, the checks that raise `ParameterError` are those of R167. -/
theorem fails_parameterError_iff : Fails .parameterError (checks i s) ↔ parameterCause i s := by
  cases i
  case geta => simp [checks, parameterCause, imp_iff_not_or]
  all_goals simp [checks, decapChecks, parameterCause]

/-- Row by row, the checks that raise `EmptyError` are those of R164. -/
theorem fails_emptyError_iff : Fails .emptyError (checks i s) ↔ emptyCause i s := by
  cases i
  all_goals simp [checks, decapChecks, emptyCause]

/-- Row by row, the checks that raise `DomainError` are those of R165. -/
theorem fails_domainError_iff : Fails .domainError (checks i s) ↔ domainCause i s := by
  cases i
  case add | sub => simp [checks, domainCause, addTags_eq_true_iff]
  case macs => simp [checks, domainCause, macTag]
  case comp | xrnd => simp [checks, domainCause, modTag]
  case recn => simp [checks, domainCause, modTag, imp_iff_not_or]
  all_goals simp [checks, decapChecks, domainCause]

/-- Row by row, the ranges that are checked are those the command reads and writes (R166). -/
theorem fails_addrError_iff : Fails .addrError (checks i s) ↔ addrCause i s := by
  cases i
  all_goals simp [checks, decapChecks, addrCause, inputRanges, outputRanges]

/-- Row by row, the checks that raise `DecodeError` are those of R162. -/
theorem fails_decodeError_iff : Fails .decodeError (checks i s) ↔ decodeCause i s := by
  cases i
  case dect => simp [checks, decodeCause, ternaryOk_eq_false_iff]
  case ser | deser | recn => simp [checks, decodeCause, allBelow_eq_false_iff, Nat.succ_le_iff]
  case encap | enc => simp [checks, decodeCause, pksOk_eq_false_iff]
  case decap | dec => simp [checks, decapChecks, decodeCause, ternaryOk_eq_false_iff, State.setting]
  all_goals simp [checks, decodeCause]

/-- The checks of a command that passes the static ones fail for the causes the tables list. -/
theorem fails_iff_causeOf (hw : i.wellFormed s.params = true) (e : ErrorKind) :
    Fails e (checks i s) ↔ causeOf i s e := by
  cases e with
  | illegalCommand => exact iff_of_false (not_fails_illegalCommand i s) (by simp [hw])
  | parameterError => exact fails_parameterError_iff i s
  | emptyError => exact fails_emptyError_iff i s
  | domainError => exact fails_domainError_iff i s
  | addrError => exact fails_addrError_iff i s
  | decodeError => exact fails_decodeError_iff i s

end Causes

/-! ### The error of a command -/

section Errors
variable {i : Instr} {s t : State}

/-- Where a command ends in `ERROR`, the static checks raised, or the command's own error entry for a check that
fails. -/
theorem exec_error_cases (h : exec i s = .next t) (ht : t.phase = .error) :
    (i.wellFormed s.params = false ∧ t = s.raise .illegalCommand (encode i)) ∨
      (i.wellFormed s.params = true ∧
        ∃ e, Fails e (checks i s) ∧ t = (prepOf i s).raise e (encode i)) := by
  obtain ⟨body, hrun, hchecked⟩ := exec_checked i s
  rcases runCommand_cases (hrun ▸ h) with ⟨hw, ⟨u, -, rfl⟩ | ⟨e, he, rfl⟩ | ⟨-, rfl⟩⟩ | ⟨hw, rfl⟩
  · cases ht
  · exact .inr ⟨hw, e, hchecked.fails_of_eq_fail he, rfl⟩
  · cases ht
  · exact .inl ⟨hw, rfl⟩

/-- The first class that has a cause is the one raised (R168). -/
theorem exec_raises_first {e : ErrorKind} (h : exec i s = .next t) (he : causeOf i s e)
    (hfirst : ∀ e', e'.rank < e.rank → ¬causeOf i s e') : t.phase = .error ∧ t.errCode = e.code := by
  obtain ⟨body, hrun, hchecked⟩ := exec_checked i s
  cases hw : i.wellFormed s.params with
  | false =>
    obtain rfl : e = .illegalCommand := by
      by_contra hne
      exact hfirst .illegalCommand (Nat.pos_of_ne_zero fun hz => hne (ErrorKind.rank_injective hz)) hw
    cases (hrun.trans (runCommand_illegal hw)).symm.trans h
    exact ⟨rfl, rfl⟩
  | true =>
    simp only [← fails_iff_causeOf i s hw] at he hfirst
    cases (hrun.trans (runCommand_fail hw (hchecked.eq_fail (checks_pairwise i s) he hfirst))).symm.trans h
    exact ⟨rfl, rfl⟩

/-- Where no class has a cause, the command does not end in `ERROR`. -/
theorem exec_phase_of_noCause (h : exec i s = .next t) (hno : noCause i s) : t.phase ≠ .error := by
  intro ht
  obtain ⟨hw, hnone⟩ := hno
  rcases exec_error_cases h ht with ⟨hillegal, -⟩ | ⟨-, e, he, -⟩
  · cases hw.symm.trans hillegal
  · have hcause := (fails_iff_causeOf i s hw e).mp he
    revert e
    simp [ErrorKind.forall_iff, hw, hnone, not_fails_illegalCommand]

end Errors

/-- Settles O47: the checks stand in the order of the classes, and fail for the causes of the tables. -/
theorem errorsInOrder : Obligations.ErrorsInOrder := by
  unfold Obligations.ErrorsInOrder
  intro i s
  obtain ⟨t, h⟩ := exec_isNext i s
  have hraised {e : ErrorKind} (he : causeOf i s e) (hfirst : ∀ e', e'.rank < e.rank → ¬causeOf i s e') :=
    exec_raises_first h he hfirst
  refine ⟨t, h, fun hw => hraised (e := .illegalCommand) hw nofun, fun hw => ⟨fun hp => ?_, fun hp he => ?_,
    fun hp he hd => ?_, fun hp he hd ha => ?_, fun hp he hd ha hc => ?_, exec_phase_of_noCause h⟩⟩
  · exact hraised (e := .parameterError) hp (by simp [ErrorKind.forall_iff, *])
  · exact hraised (e := .emptyError) he (by simp [ErrorKind.forall_iff, *])
  · exact hraised (e := .domainError) hd (by simp [ErrorKind.forall_iff, *])
  · exact hraised (e := .addrError) ha (by simp [ErrorKind.forall_iff, *])
  · exact hraised (e := .decodeError) hc (by simp [ErrorKind.forall_iff, *])

/-- Settles O48: an error of a command is that of one of its checks, and the table lists it. -/
theorem errorsPerCommand : Obligations.ErrorsPerCommand := by
  unfold Obligations.ErrorsPerCommand
  intro i s t h ht
  rcases exec_error_cases h ht with ⟨hw, rfl⟩ | ⟨hw, e, ⟨x, hx, rfl, -⟩, rfl⟩
  · exact .inl ⟨hw, rfl⟩
  · exact .inr ⟨hw, x.1, checks_allowed i s x hx, rfl⟩

/-! ### Error entry (R160) -/

theorem code_eq_three_iff {e : ErrorKind} : e.code = 3 ↔ e = .illegalCommand := by
  cases e <;> simp [ErrorKind.code]

theorem prepOf_eq_self {i : Instr} (hprotocol : ¬isProtocol i = true) (hldcfg : i ≠ .ldcfg) (s : State) :
    prepOf i s = s := by
  cases i
  case setup | keygen | encap | enc | decap | dec => exact absurd rfl hprotocol
  case ldcfg => exact absurd rfl hldcfg
  all_goals rfl

/-- Settles O49: the state an error is raised in is the one the static checks saw, or the one `prepOf` gives. -/
theorem errorEntry : Obligations.ErrorEntry := by
  unfold Obligations.ErrorEntry
  intro i s t h ht
  rcases exec_error_cases h ht with ⟨hw, rfl⟩ | ⟨hw, e, he, rfl⟩
  · obtain ⟨hlo, hhi⟩ := code_range .illegalCommand
    refine ⟨hlo, hhi, rfl, ?_⟩
    have hldcfg : i ≠ .ldcfg := by
      rintro rfl
      cases hw
    rw [if_neg (fun hp => hp.2 rfl), if_neg hldcfg]
    rfl
  · obtain ⟨hlo, hhi⟩ := code_range e
    refine ⟨hlo, hhi, rfl, ?_⟩
    have hcode : e.code ≠ 3 := fun h3 => not_fails_illegalCommand i s (code_eq_three_iff.mp h3 ▸ he)
    by_cases hprotocol : isProtocol i = true
    · rw [if_pos ⟨hprotocol, hcode⟩, prepOf_of_isProtocol hprotocol]
      exact ⟨rfl, scratchCleared_clearScratch s⟩
    · rw [if_neg fun hp => hprotocol hp.1]
      split_ifs with hldcfg
      · subst hldcfg
        rfl
      · rw [prepOf_eq_self hprotocol hldcfg]
        rfl

end Sys2Proof.Machine
end

section
/-! SUPPORT. Reset (`70_reset_and_hazards.md` R180) and the commands that can run on (R190): of the bodies of the
commands only those that sample by rejection can be left running, and while the state stays `BUSY` a step changes only
the model's own fields (log 5). -/

namespace Sys2Proof.Machine

/-! ### Reset -/

theorem slots_launch_tag (p : Params) (m : Memory) : ∀ x ∈ (State.launch p m).slots, x.tag = .empty := by
  intro x hx
  rw [List.eq_of_mem_replicate hx, Slot.blank]

theorem args_launch (p : Params) (m : Memory) (k : Fin 12) : (State.launch p m).args[k] = 0 := by
  simp [State.launch]

theorem status_launch (p : Params) (m : Memory) : (State.launch p m).status = 0 :=
  BitVec.eq_of_toNat_eq (status_toNat _)

/-- Settles O12: reset launches the instance anew, on the memory it brings. -/
theorem resetAction : Obligations.ResetAction := by
  unfold Obligations.ResetAction
  intro s bytes
  let m := Memory.ofBytes s.params.bmemBytes bytes
  exact ⟨_, step_offer s (.reset bytes), rfl, rfl, rfl, rfl, rfl, rfl, rfl, rfl, rfl, rfl, rfl, rfl,
    args_launch s.params m, List.length_replicate, slots_launch_tag s.params m,
    fun k => congrArg _ (stream_launch s.params m k), rfl, status_launch s.params m, Memory.wf_ofBytes _ bytes,
    Memory.forall_lt_ofBytes _ bytes⟩

/-! ### Rules that end -/

theorem require_ne_running {c : Prop} [Decidable c] {e : ErrorKind} {k : Result} (h : k ≠ .running) :
    require c e k ≠ .running :=
  fun hr => h (require_eq_running.mp hr).2

theorem requireDecap_ne_running (s : State) (n : Nat) {k : Result} (h : k ≠ .running) :
    requireDecap s n k ≠ .running := by
  iterate 9 apply require_ne_running
  exact h

/-- Samples that are always there make a vector of samples. -/
theorem sampleVec_ne_none {α : Type} {sample : Nat → Option (α × Nat)} (h : ∀ pos, sample pos ≠ none) (k pos : Nat) :
    sampleVec sample k pos ≠ none := by
  induction k generalizing pos with
  | zero => exact nofun
  | succ k ih =>
    rw [sampleVec]
    split
    · exact absurd ‹_› (h pos)
    · split
      · exact absurd ‹_› (ih _)
      · exact nofun

/-- Binary secrets take the bytes of the stream as they come (R109). -/
theorem smallSample_ne_none {g : Setting} (h : g.ternary = false) (st : Nat → Byte) (pos : Nat) :
    smallSample g st pos ≠ none := by
  simp [smallSample, h]

/-- Only a key pair of ternary secrets can need more draws. -/
theorem ternary_of_keygen_eq_none {g : Setting} {matrix : Nat → Nat → List Nat} {seed : List Byte}
    (h : keygen g matrix seed = none) : g.ternary = true := by
  by_contra hbinary
  have hsample := smallSample_ne_none (Bool.eq_false_of_not_eq_true hbinary)
  unfold keygen at h
  split at h
  · cases h
  · rename_i hmissing
    obtain ⟨sb, hsb⟩ := Option.ne_none_iff_exists'.mp (sampleVec_ne_none (hsample _) g.m 0)
    obtain ⟨eb, heb⟩ := Option.ne_none_iff_exists'.mp (sampleVec_ne_none (hsample _) g.n 0)
    exact hmissing _ _ _ _ hsb heb

/-! ### Commands that run on -/

/-- The outcome is that of a run of the command whose body is left running only where R190 allows it. -/
def RunsOnAllowed (i : Instr) (s : State) (o : Host.Outcome State Fault Refusal) : Prop :=
  ∃ body, o = runCommand i (prepOf i) body s ∧ (body (prepOf i s) = .running → mayRunOn i s)

/-- Every command is the run of a body that ends after its checks, unless it samples by rejection. -/
theorem exec_runsOnAllowed (i : Instr) (s : State) : RunsOnAllowed i s (exec i s) := by
  cases i
  all_goals dsimp only [exec]
  case nop | clrerr | aclr => exact ⟨_, rfl, nofun⟩
  case ldcfg | ared | xinita | xinits => exact ⟨_, rfl, fun hr => absurd hr (require_ne_running nofun)⟩
  case ntt | intt | scale | snorm | comp | dcmp | xrnd | decb | smpb =>
    exact ⟨_, rfl, fun hr => absurd hr (require_ne_running (require_ne_running nofun))⟩
  case muln | add | sub | geta | rdbl | dect | ser | deser =>
    exact ⟨_, rfl, fun hr => absurd hr (require_ne_running (require_ne_running (require_ne_running nofun)))⟩
  case macs | recn =>
    exact ⟨_, rfl, fun hr =>
      absurd hr (require_ne_running (require_ne_running (require_ne_running (require_ne_running nofun))))⟩
  case decap | dec => exact ⟨_, rfl, fun hr => absurd hr (requireDecap_ne_running _ _ nofun)⟩
  case smpu | smpt | smpg | setup | encap | enc => exact ⟨_, rfl, fun _ => trivial⟩
  case keygen =>
    refine ⟨_, rfl, fun hr => ?_⟩
    iterate 6 replace hr := (require_eq_running.mp hr).2
    split at hr
    · exact beq_iff_eq.mp (ternary_of_keygen_eq_none ‹_›)
    · cases hr

/-- A command still `BUSY` after an attempt has been left running by its body. -/
theorem mayRunOn_of_busy {i : Instr} {s t : State} (h : exec i s = .next t) (ht : t.phase = .busy) :
    mayRunOn i s := by
  obtain ⟨body, hrun, hallowed⟩ := exec_runsOnAllowed i s
  rcases runCommand_cases (hrun ▸ h) with ⟨-, ⟨u, -, rfl⟩ | ⟨e, -, rfl⟩ | ⟨hr, -⟩⟩ | ⟨-, rfl⟩
  · cases ht
  · cases ht
  · exact hallowed hr
  · cases ht

/-- A run still `BUSY` is put off, which writes nothing but `STATE` and what is in flight. -/
theorem Ran.eq_keepRunning {i : Instr} {s t : State} (h : Ran i s t) (ht : t.phase = .busy) : t = s.keepRunning i := by
  cases h with
  | running => rfl
  | illegal | ended | raised => cases ht

/-! ### Steps from `BUSY` to `BUSY` -/

/-- Only the model's own fields may differ, and the command in flight is the same. -/
def InvisiblyOn (s t : State) : Prop :=
  t = { s with
    port := t.port, flight := t.flight, csrData := t.csrData, bmemData := t.bmemData, freeCtr := t.freeCtr } ∧
  t.flight.map Flight.instr = s.flight.map Flight.instr

/-- An attempt that is put off leaves the command in flight. -/
theorem invisiblyOn_keepRunning {s : State} {f : Flight} (hs : s.phase = .busy) (hf : s.flight = some f) :
    InvisiblyOn s (s.keepRunning f.instr) := by
  refine ⟨?_, by rw [State.keepRunning_flight, hf]; rfl⟩
  rw [hs]
  rfl

/-- In `BUSY` the host's writes and words are dropped, its reads touch the latches, and reset ends `BUSY`. -/
theorem Moves.invisiblyOn {s t : State} {x : HostAction} (h : Moves s x t) (hs : s.phase = .busy)
    (ht : t.phase = .busy) : InvisiblyOn s t := by
  cases h with
  | accepted hp | rejected hp | cleared hp => cases hs.symm.trans hp
  | csrWrite hp | bmemWrite hp => exact absurd hs hp
  | reset => cases ht
  | dropped | csrWriteDropped | csrRead | bmemWriteDropped | bmemRead | quiet => exact ⟨rfl, rfl⟩
  | attempt _ hf hr =>
    rw [hr.eq_keepRunning ht]
    exact invisiblyOn_keepRunning hs hf

/-- Settles O59: a command is left running only by its body, and a step is one of the host's moves. -/
theorem onlySamplingRunsOn : Obligations.OnlySamplingRunsOn := by
  unfold Obligations.OnlySamplingRunsOn
  refine ⟨fun i s t h ht => ?_, fun s t hs h ht => (step_moves h).invisiblyOn hs ht⟩
  exact ⟨mayRunOn_of_busy h ht, 2 * s.budget, (exec_ran h).eq_keepRunning ht⟩

end Sys2Proof.Machine
end
